-- ==== Sys2Proof/Word.lean ====
section
/-! DEFINITION. The word and byte types of PDAS (spec/10_state.md R22: every register is 32 bits wide;
spec/00_scope.md R8: a delta and a frame byte are 8 bits). -/

namespace Sys2Proof

/-- A register, a bus datum or a command word: `BUS_W` = 32 bits (00 R7). -/
abbrev Word := BitVec 32

/-- A frame byte, a status byte or a delta pattern (00 R8). -/
abbrev Byte := BitVec 8

/-- A byte offset inside the 32-byte register window (20 R40). -/
abbrev Offset := BitVec 5

end Sys2Proof
end

