-- ==== Sys2Proof/Syntax.lean ====
section
/-! DEFINITION. The commands of PDAS: one constructor per row of spec/opcode_table.json. -/

namespace Sys2Proof

/-- The commands of 30 R57. A command has no operand field: every operand is implicit (30 R64). -/
inductive Instr where
  /-- NOP, command word 0x00000000 (42 R100). -/
  | nop
  /-- DECODE, command word 0x00000001 (40 R70). -/
  | decode
  /-- SHAPE_X, command word 0x00000002 (41 R90). -/
  | shapeX
  /-- SHAPE_Y, command word 0x00000003 (41 R91). -/
  | shapeY
  /-- SHAPE_XY, command word 0x00000004 (41 R92). -/
  | shapeXY
  deriving DecidableEq, Repr

end Sys2Proof
end

