-- ==== Sys2Proof/Config.lean ====
section
/-! DEFINITION. What is fixed for one PDAS machine and is no state (spec/00_scope.md R7, R13). -/

namespace Sys2Proof

/-- `OVF_MODE` (00 R7): what the shaper does with a result outside -128..127. -/
inductive OvfMode where
  /-- clamp to 127 or -128 -/
  | sat
  /-- keep the low 8 bits -/
  | wrap
  deriving DecidableEq, Repr

/-- The rows of 00 R7 that are marked "parameter" and have a value in PDAS v1. -/
structure Params where
  /-- `TS_W`: width of NOW and LAST_TIME -/
  tsW : Nat
  /-- `STALE_LIMIT`: staleness threshold in time units -/
  staleLimit : Nat
  /-- `SENTINEL`: the status value that means communication failure -/
  sentinel : Byte
  /-- `DR_BIT`: the data-ready bit of the status byte -/
  drBit : Nat
  /-- `BTN_LO`: lowest bit of the button field in P0 -/
  btnLo : Nat
  /-- `XSIGN_BIT`: the X sign bit in P0 -/
  xSignBit : Nat
  /-- `YSIGN_BIT`: the Y sign bit in P0 -/
  ySignBit : Nat
  /-- `FACTOR_FRAC`: fractional bits of the factor -/
  factorFrac : Nat
  /-- `OVF_MODE` -/
  ovfMode : OvfMode
  /-- `LAST_TIME_RESET`: reset value of LAST_TIME -/
  lastTimeReset : Word
  deriving DecidableEq, Repr

/-- The integer result of the curve for a delta d, a threshold T and a factor F (93 I4). -/
abbrev Curve := Int → Nat → Nat → Int

/-- A machine's fixed part: its parameters and the arithmetic of its curve (93 I4 lets a model take the
curve as a parameter, with the exact one of 41 R86 and R87 as its default, which `exactBuild` takes).
DESIGN CHOICE (log entry 16): a curve given in the default's place is not bound by `FACTOR_FRAC`. The spec
gives that parameter a meaning only in 41 R86 and R87, the rules such a curve replaces, so a `Build` may pair
any curve with any `factorFrac`. -/
structure Build where
  params : Params
  curve : Curve

/-- `BASE`, the bus address of offset 0: OPEN in 00 R7, so it has no body. -/
opaque Config.base : Nat

/-- `TICK`, the physical length of one time unit: OPEN in 00 R7; no rule depends on it. -/
opaque Config.tick : Nat

/-- `WINDOW`, the size of the register window in bytes (00 R7, 20 R40). -/
def Config.window : Nat := 0x20

/-- `BUS_W`, `THRESH_W`, `FACTOR_W`: the widths 00 R7 fixes (bits). -/
def Config.busW : Nat := 32
def Config.threshW : Nat := 8
def Config.factorW : Nat := 16

end Sys2Proof
end

