-- ==== Sys2Proof/WellFormed.lean ====
section
/-! DEFINITION. Which terms are well formed: commands, and the parameters a machine may be built with. -/

namespace Sys2Proof

/-- Every command is well formed: it has no immediate and no register-number field (30 R64). -/
def Instr.wf : Instr → Bool
  | .nop => true
  | .decode => true
  | .shapeX => true
  | .shapeY => true
  | .shapeXY => true

/-- The conditions of 00 R7, each under the name of the row it checks. -/
def Params.drBitOk (p : Params) : Bool := decide (p.drBit ≤ 7)
def Params.xSignOk (p : Params) : Bool := decide (p.xSignBit ≤ 7)
def Params.ySignOk (p : Params) : Bool := decide (p.ySignBit ≤ 7)
def Params.signsDiffer (p : Params) : Bool := decide (p.xSignBit ≠ p.ySignBit)
def Params.btnLoOk (p : Params) : Bool := decide (p.btnLo ≤ 5)
def Params.tsWOk (p : Params) : Bool := decide (8 ≤ p.tsW) && decide (p.tsW ≤ 32)
def Params.factorFracOk (p : Params) : Bool := decide (p.factorFrac ≤ 16)

/-- The choice of parameters 00 R7 admits ("a model refuses any other choice"). -/
def Params.legal (p : Params) : Bool :=
  p.drBitOk && p.xSignOk && p.ySignOk && p.signsDiffer && p.btnLoOk && p.tsWOk && p.factorFracOk

end Sys2Proof
end

