-- ==== Sys2Proof/Decode.lean ====
section
/-! DEFINITION. From a command word to a command or a named rejection, and back
(spec/30_encoding.md R55 to R58, R69; spec/opcode_table.json). -/

namespace Sys2Proof

/-- Why a CMD value selects no command (30 R58). -/
inductive Illegal where
  /-- a bit of the must-be-zero field 31:4 is set (42 R102) -/
  | mustBeZero
  /-- the OP field is one of 0x5 to 0xF (42 R101) -/
  | reservedOp
  deriving DecidableEq, Repr

/-- What a CMD value stands for. -/
inductive Decoded where
  | command (i : Instr)
  | illegal (why : Illegal)
  deriving DecidableEq, Repr

/-- `OP`, bits 3:0 of a command word (30 R56). -/
def opField (w : Word) : BitVec 4 := w.extractLsb' 0 4

/-- `MBZ`, bits 31:4 of a command word (30 R56). -/
def mbzField (w : Word) : BitVec 28 := w.extractLsb' 4 28

/-- The dispatch of 30 R56 on OP alone, once MBZ is known to be zero. -/
def decodeOp (op : BitVec 4) : Decoded :=
  match op.toNat with
  | 0x0 => .command .nop
  | 0x1 => .command .decode
  | 0x2 => .command .shapeX
  | 0x3 => .command .shapeY
  | 0x4 => .command .shapeXY
  | _ => .illegal .reservedOp

/-- The decoder of 30 R56: the MBZ test first, then OP. Total on every 32-bit word. -/
def decode (w : Word) : Decoded :=
  if mbzField w ≠ 0 then .illegal .mustBeZero else decodeOp (opField w)

/-- The command word of 30 R57. -/
def encode : Instr → Word
  | .nop => 0x00000000
  | .decode => 0x00000001
  | .shapeX => 0x00000002
  | .shapeY => 0x00000003
  | .shapeXY => 0x00000004

/-- The command of a decoded word, where it has one. -/
def Decoded.instr? : Decoded → Option Instr
  | .command i => some i
  | .illegal _ => none

/-- One row of spec/opcode_table.json. -/
structure OpcodeRow where
  instr : Instr
  mask : Word
  pattern : Word
  deriving DecidableEq, Repr

/-- The rows of spec/opcode_table.json ("match" under "mask"). -/
def opcodeTable : List OpcodeRow :=
  [⟨.nop, 0xFFFFFFFF, 0x00000000⟩, ⟨.decode, 0xFFFFFFFF, 0x00000001⟩,
   ⟨.shapeX, 0xFFFFFFFF, 0x00000002⟩, ⟨.shapeY, 0xFFFFFFFF, 0x00000003⟩,
   ⟨.shapeXY, 0xFFFFFFFF, 0x00000004⟩]

/-- A word names a row when its bits under the row's mask are the row's match (30 R69). -/
def OpcodeRow.names (r : OpcodeRow) (w : Word) : Bool := w &&& r.mask == r.pattern

/-- The decoder 30 R69 builds from the table alone: the first row the word names. -/
def tableDecode (w : Word) : Option Instr :=
  (opcodeTable.find? (·.names w)).map OpcodeRow.instr

/-- The host's view of the decoder: the command of the `nbits`-bit word `w`, bits above `nbits` zero. A
command is exactly one 32-bit write (30 R65), so a longer word is none. -/
def decodeTableWord (nbits w : Nat) : Option Instr :=
  if nbits ≤ 32 then (decode (BitVec.ofNat 32 (w % 2 ^ nbits))).instr? else none

end Sys2Proof
end

