-- ==== Sys2Proof/Machine/Access.lean ====
section
/-! DEFINITION. What the outside world does to PDAS: bus transactions, as 30 R68 writes them, and reset. -/

namespace Sys2Proof.Machine

/-- The access sizes of 30 R68, in bytes: 1, 2, 4 and 8. -/
inductive Size where
  | one
  | two
  | four
  | eight
  deriving DecidableEq, Repr

/-- A bus transaction: the tuple (kind, offset, size, data) of 30 R68. -/
inductive Access where
  /-- a bus write; data is a 32-bit value whatever the size is (30 R68) -/
  | write (off : Offset) (size : Size) (data : Word)
  /-- a bus read; it carries no data -/
  | read (off : Offset) (size : Size)
  deriving DecidableEq, Repr

/-- One event at the block's boundary, in the order the block sees them. -/
inductive Input where
  /-- a transaction of the host, the single bus master (20 R52) -/
  | bus (a : Access)
  /-- the reset input, asserted and released between two transactions (70 R130); a power loss followed by
  power-up is the same event (60 R126) -/
  | reset
  /-- a transaction of some other bus master, which the model does not admit (70 R140, 93 I13) -/
  | foreign (a : Access)
  deriving DecidableEq, Repr

end Sys2Proof.Machine
end

