-- ==== Sys2Proof/Machine/Params.lean ====
section
/-! DEFINITION. The parameter values of PDAS v1 (spec/00_scope.md R7) and the masks they give. -/

namespace Sys2Proof.Machine

/-- The "PDAS v1 value" column of 00 R7. -/
def pdasV1 : Params where
  tsW := 32
  staleLimit := 100
  sentinel := 0xFF
  drBit := 2
  btnLo := 0
  xSignBit := 4
  ySignBit := 5
  factorFrac := 8
  ovfMode := .sat
  lastTimeReset := 0

/-- The defined bits of NOW and LAST_TIME, `TS_W - 1 : 0` (10 R27, R31). -/
def tsMask (p : Params) : Word := BitVec.ofNat 32 (2 ^ p.tsW - 1)

/-- The defined bits of CFG: 0, 15:8 and 31:16 (10 R23). -/
def cfgMask : Word := 0xFFFFFF01

/-- The defined bits of SAMPLE: 18:0 and 24 (10 R29). -/
def sampleMask : Word := 0x0107FFFF

/-- The defined bits of STAT: 3:0 (10 R33). -/
def statMask : Word := 0x0000000F

end Sys2Proof.Machine
end

