-- ==== Sys2Proof/Machine/State.lean ====
section
/-! DEFINITION. The state of PDAS (spec/10_state.md R20, R22), its reset, and the reasons a step can stop. -/

namespace Sys2Proof.Machine

/-- The architectural state of 10 R20: the registers that hold a value, and the model's own record of the
boundary. CMD has no field: it holds no value (10 R28). -/
structure State where
  /-- CFG, offset 0x00 (10 R23) -/
  cfg : Word
  /-- FRAME_IN, offset 0x04 (10 R26) -/
  frameIn : Word
  /-- NOW, offset 0x08 (10 R27) -/
  now : Word
  /-- SAMPLE, offset 0x10 (10 R29) -/
  sample : Word
  /-- LAST_TIME, offset 0x14 (10 R31) -/
  lastTime : Word
  /-- STAT, offset 0x18 (10 R33) -/
  stat : Word
  /-- THE MODEL'S OWN (log entry 1): what the outside does next, oldest first -/
  inputs : List Input
  /-- THE MODEL'S OWN (log entry 1): what the host's reads returned, oldest first -/
  responses : List Word
  deriving DecidableEq, Repr

/-- Why the machine stops with a fault. PDAS itself has no fault state (60 R110). -/
inductive Fault where
  /-- Raised by a step whose next input is a transaction of a second bus master. 93 I13 gives such a run the
  treatment `fault`. SAFE: the hardware would go on with that master's data (70 R140). -/
  | secondMaster
  deriving DecidableEq, Repr

/-- Why a step has no meaning. -/
inductive Refusal where
  /-- Raised by an arm of exec that has no meaning yet. SAFE. No arm raises it. -/
  | notModelled (mnemonic : String)
  /-- Raised by `stepBy` for a build whose parameters 00 R7 forbids ("a model refuses any other choice").
  SAFE. `step` never raises it: the PDAS v1 parameters are legal. -/
  | illegalParameters
  deriving DecidableEq, Repr

/-- The registers after reset (10 R34, 70 R130), with LAST_TIME at `LAST_TIME_RESET` in its defined bits. -/
def State.resetWith (p : Params) : State where
  cfg := 0
  frameIn := 0
  now := 0
  sample := 0
  lastTime := p.lastTimeReset &&& tsMask p
  stat := 0
  inputs := []
  responses := []

/-- PDAS v1 right after reset (10 R34). -/
def State.reset : State := State.resetWith pdasV1

end Sys2Proof.Machine
end

