-- ==== Sys2Proof/Machine/Operands.lean ====
section
/-! DEFINITION. The operand forms: the register fields of spec/10_state.md, the signed views of
spec/00_scope.md R10 and the byte lanes of spec/20_memory.md R48. -/

namespace Sys2Proof.Machine

/-- `s8(b)`: the two's-complement value of an 8-bit pattern (00 R10). -/
def s8 (b : Byte) : Int := if b.toNat < 0x80 then (b.toNat : Int) else (b.toNat : Int) - 256

/-- `u8(v)`: the pattern `v mod 256` (00 R10, which defines it for v in -128..255; outside that range the same
formula is the model's DESIGN CHOICE, log entry 18). -/
def u8 (v : Int) : Byte := BitVec.ofInt 8 v

/-- FRAME_IN.STATUS, bits 7:0 (10 R26). -/
def frameStatus (w : Word) : Byte := w.extractLsb' 0 8
/-- FRAME_IN.P0, bits 15:8 (10 R26). -/
def frameP0 (w : Word) : Byte := w.extractLsb' 8 8
/-- FRAME_IN.P1, bits 23:16 (10 R26). -/
def frameP1 (w : Word) : Byte := w.extractLsb' 16 8
/-- FRAME_IN.P2, bits 31:24 (10 R26). -/
def frameP2 (w : Word) : Byte := w.extractLsb' 24 8

/-- CFG.ACCEL_EN, bit 0 (10 R23). -/
def accelEn (w : Word) : Bool := w.getLsbD 0
/-- CFG.THRESHOLD, bits 15:8, unsigned (10 R23). -/
def threshold (w : Word) : Nat := (w.extractLsb' 8 8).toNat
/-- CFG.FACTOR, bits 31:16, unsigned (10 R23). -/
def factor (w : Word) : Nat := (w.extractLsb' 16 16).toNat

/-- SAMPLE.DX, bits 7:0 (10 R29). -/
def dx (w : Word) : Byte := w.extractLsb' 0 8
/-- SAMPLE.DY, bits 15:8 (10 R29). -/
def dy (w : Word) : Byte := w.extractLsb' 8 8
/-- SAMPLE.BUTTONS, bits 18:16 (10 R29). -/
def buttons (w : Word) : BitVec 3 := w.extractLsb' 16 3
/-- SAMPLE.VALID, bit 24 (10 R29). -/
def valid (w : Word) : Bool := w.getLsbD 24

/-- `SAMPLE.DX <- b`: only that field changes (00 R11). -/
def setDx (w : Word) (b : Byte) : Word := w.extractLsb' 8 24 ++ b
/-- `SAMPLE.DY <- b` (00 R11). -/
def setDy (w : Word) (b : Byte) : Word := w.extractLsb' 16 16 ++ b ++ w.extractLsb' 0 8
/-- `SAMPLE.BUTTONS <- b` (00 R11). -/
def setButtons (w : Word) (b : BitVec 3) : Word := w.extractLsb' 19 13 ++ b ++ w.extractLsb' 0 16
/-- `SAMPLE.VALID <- v` (00 R11). -/
def setValid (w : Word) (v : Bool) : Word := w.extractLsb' 25 7 ++ BitVec.ofBool v ++ w.extractLsb' 0 24

/-- Byte lane k of a register, bits `8k+7 : 8k`: the byte at address BASE + offset + k (20 R48). -/
def lane (w : Word) (k : Nat) : Byte := w.extractLsb' (8 * k) 8

/-- The 32-bit little-endian load of the bytes at four rising addresses (20 R48). -/
def wordOfLanes (b0 b1 b2 b3 : Byte) : Word := b3 ++ b2 ++ b1 ++ b0

end Sys2Proof.Machine
end

