-- ==== Sys2Proof/Machine/Flags.lean ====
section
/-! DEFINITION. The sticky error flags of STAT (spec/10_state.md R33, spec/60_exceptions.md R110). -/

namespace Sys2Proof.Machine

/-- The error conditions; the bit number is the error's code (60 R110). -/
inductive Error where
  /-- a CMD value that selects no command -/
  | illegalCmd
  /-- a SHAPE command while ACCEL_EN = 1 and THRESHOLD = 0 -/
  | cfgErr
  /-- an access that is not a 4-byte aligned access to a mapped offset -/
  | busErr
  /-- a curve result outside -128..127 -/
  | sat
  deriving DecidableEq, Repr

/-- The STAT bit of an error (10 R33, 60 R110). -/
def errorBit : Error → Nat
  | .illegalCmd => 0
  | .cfgErr => 1
  | .busErr => 2
  | .sat => 3

/-- `STAT.<bit> <- 1` on the register's value (60 R118). -/
def statRaise (e : Error) (w : Word) : Word := w ||| (1#32 <<< errorBit e)

/-- Is an error recorded in this STAT value? -/
def statHas (e : Error) (w : Word) : Bool := w.getLsbD (errorBit e)

/-- Write-1-to-clear: `STAT AND NOT (v AND 0x0000000F)` (20 R47). -/
def statClear (v w : Word) : Word := w &&& ~~~(v &&& statMask)

end Sys2Proof.Machine
end

