-- ==== Sys2Proof/Machine/Ops.lean ====
section
/-! DEFINITION. The named operations over the registers: the register map and its access kinds
(spec/10_state.md R22, spec/20_memory.md R44 to R47), error entry and clearing (spec/60_exceptions.md R118,
R119), the packet decoder's function (spec/40_packet_decoder.md R70) and the shaper's
(spec/41_acceleration_shaper.md R80 to R88). -/

namespace Sys2Proof.Machine

/-! ### The register map -/

/-- The seven registers (10 R22). -/
inductive Reg where
  | cfg
  | frameIn
  | now
  | cmd
  | sample
  | lastTime
  | stat
  deriving DecidableEq, Repr

/-- The byte offset of a register from BASE (10 R22). -/
def regOffset : Reg → Offset
  | .cfg => 0x00
  | .frameIn => 0x04
  | .now => 0x08
  | .cmd => 0x0C
  | .sample => 0x10
  | .lastTime => 0x14
  | .stat => 0x18

/-- The register at an offset: none where the offset is no multiple of 4 or is the reserved 0x1C (10 R22). -/
def regAt (off : Offset) : Option Reg :=
  match off.toNat with
  | 0x00 => some .cfg
  | 0x04 => some .frameIn
  | 0x08 => some .now
  | 0x0C => some .cmd
  | 0x10 => some .sample
  | 0x14 => some .lastTime
  | 0x18 => some .stat
  | _ => none

/-- What a read of a register returns: every reserved bit as 0 (20 R44), CMD as 0 (20 R46). -/
def readReg (p : Params) (r : Reg) (s : State) : Word :=
  match r with
  | .cfg => s.cfg &&& cfgMask
  | .frameIn => s.frameIn
  | .now => s.now &&& tsMask p
  | .cmd => 0
  | .sample => s.sample &&& sampleMask
  | .lastTime => s.lastTime &&& tsMask p
  | .stat => s.stat &&& statMask

/-- What a write of a register stores: the defined bits (20 R44), nothing for LAST_TIME (20 R45),
write-1-to-clear for STAT (20 R47). CMD stores nothing (10 R28): the command a CMD write executes is run by
the bus (`busWrite`). -/
def writeReg (p : Params) (r : Reg) (v : Word) (s : State) : State :=
  match r with
  | .cfg => { s with cfg := v &&& cfgMask }
  | .frameIn => { s with frameIn := v }
  | .now => { s with now := v &&& tsMask p }
  | .cmd => s
  | .sample => { s with sample := v &&& sampleMask }
  | .lastTime => s
  | .stat => { s with stat := statClear v s.stat }

/-- Error entry, the one shared operation of every condition: `STAT.<bit> <- 1` and nothing else (60 R118).
The way back is the host's write to STAT (60 R119), `writeReg _ .stat`. -/
def raise (e : Error) (s : State) : State := { s with stat := statRaise e s.stat }

/-- Reset between two transactions: every register takes its reset value (70 R130); what the outside still
has to do, and what earlier reads returned, are not the block's. -/
def resetBlock (p : Params) (s : State) : State :=
  { State.resetWith p with inputs := s.inputs, responses := s.responses }

/-! ### The packet decoder's function -/

/-- The skip test of 40 R71: the sentinel, or the data-ready bit clear. -/
def frameSkipped (p : Params) (frame : Word) : Bool :=
  frameStatus frame == p.sentinel || !(frameStatus frame).getLsbD p.drBit

/-- Sign reconstruction, `M OR (sign << 7)` (40 R72). -/
def reconstruct (sign : Bool) (m : Byte) : Byte := m ||| ((BitVec.ofBool sign).setWidth 8 <<< 7)

/-- The button field of P0, bits `BTN_LO+2 : BTN_LO` (40 R73). -/
def frameButtons (p : Params) (frame : Word) : BitVec 3 := (frameP0 frame).extractLsb' p.btnLo 3

/-- The X delta of a frame (40 R70, R72). -/
def frameDx (p : Params) (frame : Word) : Byte :=
  reconstruct ((frameP0 frame).getLsbD p.xSignBit) (frameP1 frame)

/-- The Y delta of a frame (40 R70, R72). -/
def frameDy (p : Params) (frame : Word) : Byte :=
  reconstruct ((frameP0 frame).getLsbD p.ySignBit) (frameP2 frame)

/-- SAMPLE after a DECODE of a frame (40 R70). -/
def decodedSample (p : Params) (frame sample : Word) : Word :=
  if frameSkipped p frame then setValid sample false
  else setValid (setDy (setDx (setButtons sample (frameButtons p frame)) (frameDx p frame))
    (frameDy p frame)) true

/-! ### The shaper's function -/

/-- `elapsed = (NOW - LAST_TIME) mod 2^TS_W` (41 R94). -/
def elapsedTime (p : Params) (now last : Word) : Nat :=
  (((now.toNat : Int) - (last.toNat : Int)) % ((2 ^ p.tsW : Nat) : Int)).toNat

/-- The curve rounded half away from zero, in the integers of 41 R87, for `frac` fraction bits of the
factor: `N = abs(d)*T*F`, `D = 2^frac * (T + abs(d))`, `r = sign(d) * floor((2N + D) / (2D))`. -/
def exactCurve (frac : Nat) : Curve := fun d t f =>
  let n := d.natAbs * t * f
  let q := 2 ^ frac * (t + d.natAbs)
  d.sign * (((2 * n + q) / (2 * q) : Nat) : Int)

/-- The build of given parameters with the default curve of 93 I4: the exact one, at `FACTOR_FRAC`
(41 R86, R87). -/
def exactBuild (p : Params) : Build := ⟨p, exactCurve p.factorFrac⟩

/-- PDAS v1: the parameters of 00 R7 and the exact curve (41 R86, R87). -/
def buildV1 : Build := exactBuild pdasV1

/-- The i8 result for a rounded value r, and whether SAT is raised (41 R88). -/
def narrow (m : OvfMode) (r : Int) : Byte × Bool :=
  if -128 ≤ r ∧ r ≤ 127 then (u8 r, false)
  else match m with
    | .sat => (if 0 < r then u8 127 else u8 (-128), true)
    | .wrap => (u8 r, true)

/-- The value `shape_axis` returns and whether it raises SAT (41 R80, its four branches in order). -/
def shapeValue (b : Build) (cfg : Word) (elapsed : Nat) (d8 : Byte) : Byte × Bool :=
  if accelEn cfg = false then (d8, false)
  else if (s8 d8).natAbs < threshold cfg then (d8, false)
  else if b.params.staleLimit < elapsed then (d8, false)
  else narrow b.params.ovfMode (b.curve (s8 d8) (threshold cfg) (factor cfg))

/-- `shape_axis(d8)` (41 R80): the result, and the state with LAST_TIME at NOW (41 R82) and SAT raised where
the result was out of range (41 R88). The elapsed time is that before the update. -/
def shapeAxis (b : Build) (d8 : Byte) (s : State) : Byte × State :=
  let v := shapeValue b s.cfg (elapsedTime b.params s.now s.lastTime) d8
  let s1 := { s with lastTime := s.now }
  (v.1, if v.2 then raise .sat s1 else s1)

/-- The refusal check every SHAPE command makes first: ACCEL_EN = 1 and THRESHOLD = 0 (41 R81). -/
def shapeRefused (cfg : Word) : Bool := accelEn cfg && threshold cfg == 0

end Sys2Proof.Machine
end

