-- ==== Sys2Proof/Machine/Control.lean ====
section
/-! DEFINITION. The control commands: NOP and the words that select no command (spec/42_control.md). -/

namespace Sys2Proof.Machine

/-- NOP: no effect (42 R100). -/
def nopState (s : State) : State := s

/-- NOP as PDAS v1 runs it (42 R100). -/
def execNop (s : State) : Host.Outcome State Fault Refusal := .next (nopState s)

/-- A CMD value that selects no command: `raise ILLEGAL_CMD`, nothing else (42 R101, R102; 60 R111). -/
def illegalCommand (s : State) : State := raise .illegalCmd s

end Sys2Proof.Machine
end

