-- ==== Sys2Proof/Machine/PacketDecoder.lean ====
section
/-! DEFINITION. The packet decoder's command, DECODE (spec/40_packet_decoder.md). -/

namespace Sys2Proof.Machine

/-- DECODE: SAMPLE from FRAME_IN, nothing else (40 R70, R77). -/
def decodeState (p : Params) (s : State) : State :=
  { s with sample := decodedSample p s.frameIn s.sample }

/-- DECODE as PDAS v1 runs it (40 R70). -/
def execDecode (s : State) : Host.Outcome State Fault Refusal := .next (decodeState pdasV1 s)

end Sys2Proof.Machine
end

