-- ==== Sys2Proof/Machine/Shaper.lean ====
section
/-! DEFINITION. The acceleration shaper's commands (spec/41_acceleration_shaper.md R90 to R92). -/

namespace Sys2Proof.Machine

/-- `SAMPLE.DX <- shape_axis(SAMPLE.DX)` (41 R90). -/
def shapeDx (b : Build) (s : State) : State :=
  let r := shapeAxis b (dx s.sample) s
  { r.2 with sample := setDx r.2.sample r.1 }

/-- `SAMPLE.DY <- shape_axis(SAMPLE.DY)` (41 R91). -/
def shapeDy (b : Build) (s : State) : State :=
  let r := shapeAxis b (dy s.sample) s
  { r.2 with sample := setDy r.2.sample r.1 }

/-- SHAPE_X: refused with CFG_ERR (41 R81), or the X axis shaped (41 R90). -/
def shapeXState (b : Build) (s : State) : State :=
  if shapeRefused s.cfg then raise .cfgErr s else shapeDx b s

/-- SHAPE_Y: refused with CFG_ERR (41 R81), or the Y axis shaped (41 R91). -/
def shapeYState (b : Build) (s : State) : State :=
  if shapeRefused s.cfg then raise .cfgErr s else shapeDy b s

/-- SHAPE_XY: refused with CFG_ERR, neither axis run (41 R81), or X shaped, then Y, which sees elapsed 0
because X has set LAST_TIME (41 R92). -/
def shapeXYState (b : Build) (s : State) : State :=
  if shapeRefused s.cfg then raise .cfgErr s else shapeDy b (shapeDx b s)

/-- SHAPE_X as PDAS v1 runs it (41 R90). -/
def execShapeX (s : State) : Host.Outcome State Fault Refusal := .next (shapeXState buildV1 s)

/-- SHAPE_Y as PDAS v1 runs it (41 R91). -/
def execShapeY (s : State) : Host.Outcome State Fault Refusal := .next (shapeYState buildV1 s)

/-- SHAPE_XY as PDAS v1 runs it (41 R92). -/
def execShapeXY (s : State) : Host.Outcome State Fault Refusal := .next (shapeXYState buildV1 s)

end Sys2Proof.Machine
end

