-- ==== Sys2Proof/Machine/Dispatch.lean ====
section
/-! DEFINITION. One arm per command of spec/opcode_table.json, each one call of its meaning. -/

namespace Sys2Proof.Machine

def exec (i : Instr) (s : State) : Host.Outcome State Fault Refusal :=
  match i with
  -- spec/42_control.md
  | .nop => Sys2Proof.Machine.execNop s
  -- spec/40_packet_decoder.md
  | .decode => Sys2Proof.Machine.execDecode s
  -- spec/41_acceleration_shaper.md
  | .shapeX => Sys2Proof.Machine.execShapeX s
  | .shapeY => Sys2Proof.Machine.execShapeY s
  | .shapeXY => Sys2Proof.Machine.execShapeXY s

end Sys2Proof.Machine
end

