-- ==== Sys2Proof/Machine/Bus.lean ====
section
/-! DEFINITION. The bus: what one transaction does (spec/20_memory.md R40 to R54), the command a CMD write
executes (spec/30_encoding.md R56), and the step over the pending inputs. -/

namespace Sys2Proof.Machine

/-- How a command is run: `exec` for PDAS v1, `commandOf b` for another build. -/
abbrev Runner := Instr → State → Host.Outcome State Fault Refusal

/-- The register a transaction reaches: none is a bus error. Only an access of 4 bytes at a mapped offset,
which is then a multiple of 4, reaches one (20 R41, R42, R43). -/
def selected (off : Offset) (size : Size) : Option Reg :=
  match size with
  | .one => none
  | .two => none
  | .four => regAt off
  | .eight => none

/-- A write of v to CMD executes the command v as one step (20 R46, 30 R56). -/
def writeCmd (run : Runner) (v : Word) (s : State) : Host.Outcome State Fault Refusal :=
  match decode v with
  | .command i => run i s
  | .illegal _ => .next (illegalCommand s)

/-- A bus write (20 R43 to R47). On a bus error no register changes but STAT and no command executes. -/
def busWrite (p : Params) (run : Runner) (off : Offset) (size : Size) (v : Word) (s : State) :
    Host.Outcome State Fault Refusal :=
  match selected off size with
  | none => .next (raise .busErr s)
  | some .cmd => writeCmd run v s
  | some r => .next (writeReg p r v s)

/-- A bus read: the host is given the register, or 0x00000000 on a bus error (20 R43 to R47). -/
def busRead (p : Params) (off : Offset) (size : Size) (s : State) : State :=
  match selected off size with
  | none => { raise .busErr s with responses := s.responses ++ [0] }
  | some r => { s with responses := s.responses ++ [readReg p r s] }

/-- One transaction of the host, complete before the next is accepted (20 R52). -/
def transact (p : Params) (run : Runner) (a : Access) (s : State) : Host.Outcome State Fault Refusal :=
  match a with
  | .write off size v => busWrite p run off size v s
  | .read off size => .next (busRead p off size s)

/-- One step: the next input, or nothing while the block waits for the host (70 R131). -/
def stepVia (p : Params) (run : Runner) (s : State) : Host.Outcome State Fault Refusal :=
  match s.inputs with
  | [] => .next s
  | .bus a :: rest => transact p run a { s with inputs := rest }
  | .reset :: rest => .next (resetBlock p { s with inputs := rest })
  | .foreign _ :: _ => .fault .secondMaster

/-- What a command does to the state of a machine of any build (30 R56). -/
def commandOf (b : Build) (i : Instr) (s : State) : State :=
  match i with
  | .nop => nopState s
  | .decode => decodeState b.params s
  | .shapeX => shapeXState b s
  | .shapeY => shapeYState b s
  | .shapeXY => shapeXYState b s

/-- The step of a machine of any build; parameters 00 R7 forbids are refused. -/
def stepBy (b : Build) (s : State) : Host.Outcome State Fault Refusal :=
  if b.params.legal then stepVia b.params (fun i t => .next (commandOf b i t)) s
  else .refused .illegalParameters

/-! ### Bus addresses -/

/-- The bus address of an offset: BASE + offset (00 R11). -/
def busAddress (off : Offset) : Nat := Config.base + off.toNat

/-- The offset a bus address selects: none outside the window, where PDAS is not selected (20 R40). -/
def windowOffset (addr : Nat) : Option Offset :=
  if Config.base ≤ addr ∧ addr < Config.base + Config.window then some (BitVec.ofNat 5 (addr - Config.base))
  else none

/-- `MemRead(addr, n)` as PDAS sees it (00 R11): none where the address does not select PDAS. -/
def memRead (addr : Nat) (n : Size) : Option Access := (windowOffset addr).map fun off => .read off n

/-- `MemWrite(addr, n, v)` as PDAS sees it (00 R11). -/
def memWrite (addr : Nat) (n : Size) (v : Word) : Option Access :=
  (windowOffset addr).map fun off => .write off n v

/-- The host's next transaction is a 4-byte write of a command word to CMD (30 R65, R67). -/
def cmdWrite (w : Word) : Input := .bus (.write (regOffset .cmd) .four w)

end Sys2Proof.Machine
end

