-- ==== Sys2Proof/Machine/Step.lean ====
section
/-! DEFINITION. The step of PDAS v1, and where it takes its next command from. -/

namespace Sys2Proof.Machine

/-- One step of PDAS v1 (00 R12, 20 R52): the next input, with the commands of `exec`. -/
def step (s : State) : Host.Outcome State Fault Refusal := stepVia pdasV1 exec s

/-- The machine fetches nothing (20 R54): its next command is the data of the host's next CMD write. So the
word stands as the host's very next transaction, before those it already had (log entry 3).
DESIGN CHOICE (log entry 3): no command is longer than 32 bits (30 R65), and of a placed word of more than
32 bits the host writes bits 31:0, all that one CMD write can hold; `decodeTableWord` reads no command from
such a word. -/
def State.withFetchWord (s : State) (nbits w : Nat) : State :=
  { s with inputs := cmdWrite (BitVec.ofNat 32 (w % 2 ^ nbits)) :: s.inputs }

end Sys2Proof.Machine
end

