-- ==== Sys2Proof/Machine/Script.lean ====
section
/-! DEFINITION. The host as an agent above the machine: host scripts (spec/30_encoding.md R66 to R68), their
pseudo-instructions (R67), and the boot and per-sample sequences of spec/70_reset_and_hazards.md R134, R135.
Labels, branches and names exist only in the host; PDAS sees only the transactions (30 R66). -/

namespace Sys2Proof.Machine

/-- What a script line addresses: a register name or an offset (30 R66). -/
inductive Target where
  | reg (r : Reg)
  | offset (o : Offset)
  deriving DecidableEq, Repr

/-- The host's arithmetic on names it read earlier. 30 R66 gives conditions by example only: this choice of
operators is the model's (log entry 8). -/
inductive HostExpr where
  | name (n : String)
  | const (v : Word)
  | band (a b : HostExpr)
  | bor (a b : HostExpr)
  | bxor (a b : HostExpr)
  | add (a b : HostExpr)
  | sub (a b : HostExpr)
  | shl (a : HostExpr) (k : Nat)
  | shr (a : HostExpr) (k : Nat)
  /-- `sext_32` of the low byte (00 R11) -/
  | sext8 (a : HostExpr)
  /-- `zext_32` of the low byte (00 R11) -/
  | zext8 (a : HostExpr)
  deriving DecidableEq, Repr

/-- A host-side condition (30 R66, log entry 8). -/
inductive HostCond where
  | eq (a b : HostExpr)
  | ne (a b : HostExpr)
  | ltU (a b : HostExpr)
  | ltS (a b : HostExpr)
  | not (c : HostCond)
  | and (c d : HostCond)
  | or (c d : HostCond)
  deriving DecidableEq, Repr

/-- A line of a host script (30 R66). -/
inductive Line where
  /-- `WR <reg>, <value32>` -/
  | wr (t : Target) (v : Word)
  /-- `RD <reg> -> <name>` -/
  | rd (t : Target) (n : String)
  /-- `<label>:` -/
  | label (l : String)
  /-- `IF <cond> GOTO <label>` -/
  | ifGoto (c : HostCond) (l : String)
  /-- `; text` -/
  | comment (text : String)
  /-- a transaction the line forms above cannot write, of size 1, 2 or 8 (30 R68) -/
  | access (a : Access)
  deriving DecidableEq, Repr

/-- The offset a target stands for. -/
def Target.off : Target → Offset
  | .reg r => regOffset r
  | .offset o => o

/-- The transaction of a line, if it has one (30 R68). -/
def Line.transaction : Line → Option Access
  | .wr t v => some (.write t.off .four v)
  | .rd t _ => some (.read t.off .four)
  | .label _ => none
  | .ifGoto _ _ => none
  | .comment _ => none
  | .access a => some a

/-! ### Pseudo-instructions (30 R67) -/

def psNop : Line := .wr (.reg .cmd) 0x00000000
def psDecode : Line := .wr (.reg .cmd) 0x00000001
def psShapeX : Line := .wr (.reg .cmd) 0x00000002
def psShapeY : Line := .wr (.reg .cmd) 0x00000003
def psShapeXY : Line := .wr (.reg .cmd) 0x00000004
/-- `(f << 16) OR (t << 8) OR en` -/
def cfgWord (en : BitVec 1) (t : Byte) (f : BitVec 16) : Word :=
  (f.setWidth 32 <<< 16) ||| (t.setWidth 32 <<< 8) ||| en.setWidth 32
def psSetCfg (en : BitVec 1) (t : Byte) (f : BitVec 16) : Line := .wr (.reg .cfg) (cfgWord en t f)
/-- `(p2 << 24) OR (p1 << 16) OR (p0 << 8) OR s` -/
def frameWord (s p0 p1 p2 : Byte) : Word :=
  (p2.setWidth 32 <<< 24) ||| (p1.setWidth 32 <<< 16) ||| (p0.setWidth 32 <<< 8) ||| s.setWidth 32
def psFrame (s p0 p1 p2 : Byte) : Line := .wr (.reg .frameIn) (frameWord s p0 p1 p2)
def psSetNow (t : Word) : Line := .wr (.reg .now) t
/-- `(u8(dy) << 8) OR u8(dx)`; BUTTONS and VALID are written 0.
DESIGN CHOICE (log entry 18): 30 R67 states no range for dx and dy, and 00 R10 gives u8 on -128..255 only. The
pseudo-instruction takes any integers, and writes those outside the range modulo 256 as well. -/
def deltaWord (x y : Int) : Word := ((u8 y).setWidth 32 <<< 8) ||| (u8 x).setWidth 32
def psSetDelta (x y : Int) : Line := .wr (.reg .sample) (deltaWord x y)
def psClrStat : Line := .wr (.reg .stat) 0x0000000F

/-! ### The host's step -/

/-- The host: its script, the position of its next line and the names it has read, latest first. -/
structure Driver where
  script : List Line
  pos : Nat
  vars : List (String × Word)
  deriving DecidableEq, Repr

/-- The value of a host expression: none where a name has not been read.
DESIGN CHOICE (log entry 8): the spec states no width for the host's arithmetic. The model's host computes in
32-bit words, the width of what it reads, so a sum, a difference and a left shift wrap modulo 2^32. -/
def HostExpr.eval (vars : List (String × Word)) : HostExpr → Option Word
  | .name n => vars.lookup n
  | .const v => some v
  | .band a b => do return (← a.eval vars) &&& (← b.eval vars)
  | .bor a b => do return (← a.eval vars) ||| (← b.eval vars)
  | .bxor a b => do return (← a.eval vars) ^^^ (← b.eval vars)
  | .add a b => do return (← a.eval vars) + (← b.eval vars)
  | .sub a b => do return (← a.eval vars) - (← b.eval vars)
  | .shl a k => do return (← a.eval vars) <<< k
  | .shr a k => do return (← a.eval vars) >>> k
  | .sext8 a => do return ((← a.eval vars).setWidth 8).signExtend 32
  | .zext8 a => do return ((← a.eval vars).setWidth 8).setWidth 32

/-- The truth of a host condition: none where a name has not been read. -/
def HostCond.eval (vars : List (String × Word)) : HostCond → Option Bool
  | .eq a b => do return (← a.eval vars) == (← b.eval vars)
  | .ne a b => do return (← a.eval vars) != (← b.eval vars)
  | .ltU a b => do return (← a.eval vars).ult (← b.eval vars)
  | .ltS a b => do return (← a.eval vars).slt (← b.eval vars)
  | .not c => do return !(← c.eval vars)
  | .and c d => do return (← c.eval vars) && (← d.eval vars)
  | .or c d => do return (← c.eval vars) || (← d.eval vars)

/-- What one step of the host and the machine together comes to. -/
inductive Progress where
  | next (d : Driver) (s : State)
  /-- the script has no line left -/
  | finished
  /-- a GOTO names a label the script does not have -/
  | noLabel (l : String)
  /-- a condition names a value that has not been read -/
  | noName
  | fault (f : Fault)
  | refused (r : Refusal)
  deriving DecidableEq, Repr

/-- One step of the machine, after which the host is `d` of the state reached. -/
def Progress.ofStep (d : State → Driver) (o : Host.Outcome State Fault Refusal) : Progress :=
  match o with
  | .next s => .next (d s) s
  | .fault f => .fault f
  | .refused r => .refused r

/-- The host's next line. -/
def Driver.advance (d : Driver) : Driver := { d with pos := d.pos + 1 }

/-- Keep what a read returned under a name. -/
def Driver.keep (d : Driver) (n : String) (s : State) : Driver :=
  { d with vars := (n, s.responses.getLast?.getD 0) :: d.vars }

/-- The position of a label in the script. -/
def Driver.labelPos (d : Driver) (l : String) : Option Nat := d.script.findIdx? (· == .label l)

/-- The state in which the host's next transaction is `a`. -/
def issue (a : Access) (s : State) : State := { s with inputs := [.bus a] }

/-- A line of the script performed by the host (30 R66). -/
def lineStep (d : Driver) (s : State) (l : Line) : Progress :=
  match l with
  | .wr t v => Progress.ofStep (fun _ => d.advance) (step (issue (.write t.off .four v) s))
  | .rd t n => Progress.ofStep (fun s' => d.advance.keep n s') (step (issue (.read t.off .four) s))
  | .access a => Progress.ofStep (fun _ => d.advance) (step (issue a s))
  | .label _ => .next d.advance s
  | .comment _ => .next d.advance s
  | .ifGoto c l' =>
    match c.eval d.vars with
    | none => .noName
    | some false => .next d.advance s
    | some true =>
      match d.labelPos l' with
      | none => .noLabel l'
      | some k => .next { d with pos := k } s

/-- The host and the block together: the machine first finishes what stands at its boundary, then the host
performs its next line (20 R52: one transaction at a time, in program order). -/
def driverStep (d : Driver) (s : State) : Progress :=
  if s.inputs = [] then
    match d.script[d.pos]? with
    | none => .finished
    | some l => lineStep d s l
  else Progress.ofStep (fun _ => d) (step s)

/-! ### Well-formed scripts -/

/-- The labels of a script. -/
def scriptLabels (ls : List Line) : List String :=
  ls.filterMap fun | .label l => some l | _ => none

/-- No label stands twice. -/
def labelsUnique (ls : List Line) : Bool := decide (scriptLabels ls).Nodup

/-- Every GOTO names a label of the script. -/
def targetsDefined (ls : List Line) : Bool :=
  ls.all fun | .ifGoto _ l => (scriptLabels ls).contains l | _ => true

/-- The names an expression uses. -/
def HostExpr.names : HostExpr → List String
  | .name n => [n]
  | .const _ => []
  | .band a b => a.names ++ b.names
  | .bor a b => a.names ++ b.names
  | .bxor a b => a.names ++ b.names
  | .add a b => a.names ++ b.names
  | .sub a b => a.names ++ b.names
  | .shl a _ => a.names
  | .shr a _ => a.names
  | .sext8 a => a.names
  | .zext8 a => a.names

/-- The names a condition uses. -/
def HostCond.names : HostCond → List String
  | .eq a b => a.names ++ b.names
  | .ne a b => a.names ++ b.names
  | .ltU a b => a.names ++ b.names
  | .ltS a b => a.names ++ b.names
  | .not c => c.names
  | .and c d => c.names ++ d.names
  | .or c d => c.names ++ d.names

/-- Every name a condition uses is read on an earlier line (30 R66: "names read earlier"). -/
def namesReadEarlier (known : List String) : List Line → Bool
  | [] => true
  | .rd _ n :: ls => namesReadEarlier (n :: known) ls
  | .ifGoto c _ :: ls => c.names.all known.contains && namesReadEarlier known ls
  | .wr _ _ :: ls => namesReadEarlier known ls
  | .label _ :: ls => namesReadEarlier known ls
  | .comment _ :: ls => namesReadEarlier known ls
  | .access _ :: ls => namesReadEarlier known ls

/-- A script the host can run. -/
def scriptWf (ls : List Line) : Bool := labelsUnique ls && targetsDefined ls && namesReadEarlier [] ls

/-! ### The host's sequences -/

/-- Boot (70 R134): the configuration once, then clean error flags. DESIGN CHOICE (log entry 19): step 3 is
optional, and whether the host takes it is the argument `clear`. -/
def bootScript (en : BitVec 1) (t : Byte) (f : BitVec 16) (clear : Bool) : List Line :=
  psSetCfg en t f :: if clear then [psClrStat] else []

/-- The optional last step of 70 R134: LAST_TIME set to t0, so that the first sample is fresh. -/
def primeScript (t0 : Word) : List Line := [psSetDelta 0 0, psSetNow t0, psShapeX]

/-- The condition VALID(smp) == 0 of 70 R135, as 30 R66 writes it. -/
def skipped (n : String) : HostCond := .eq (.band (.shr (.name n) 24) (.const 1)) (.const 0)

/-- What the host has of one sample to put in FRAME_IN (70 R135). -/
inductive Reading where
  /-- the transport returned a valid status byte, and then the three frame bytes -/
  | frame (s f0 f1 f2 : Byte)
  /-- the transport returned a status byte that is not valid (data-ready clear), so the host read no frame
  (70 R135: `if S valid`). The spec says only that S is written as the status byte. DESIGN CHOICE (log entry
  17): what the host writes as P0, P1 and P2 is given with the reading, any three bytes. -/
  | statusOnly (s f0 f1 f2 : Byte)
  /-- a read failed or was short: the host writes SENTINEL as the status byte (40 R79, 70 R135). The spec
  fixes no other byte. DESIGN CHOICE (log entry 17): what the host writes as P0, P1 and P2 is given with the
  reading, any three bytes. -/
  | failed (f0 f1 f2 : Byte)
  deriving DecidableEq, Repr

/-- The FRAME_IN write of a reading: SENTINEL stands for the status byte of a failed one (70 R135). -/
def Reading.line : Reading → Line
  | .frame s f0 f1 f2 => psFrame s f0 f1 f2
  | .statusOnly s f0 f1 f2 => psFrame s f0 f1 f2
  | .failed f0 f1 f2 => psFrame pdasV1.sentinel f0 f1 f2

/-- The per-sample sequence (70 R135). `reading` is what the transport returned (log entry 17 for the frame
bytes of a reading that has none); `owned` says that the gesture engine takes the sample; `t` is the current time. -/
def sampleScript (reading : Reading) (owned : Bool) (t : Word) : List Line :=
  [reading.line] ++
  [psDecode, .rd (.reg .sample) "smp", .ifGoto (skipped "smp") "done"] ++
  (if owned then [] else [psSetNow t, psShapeXY, .rd (.reg .sample) "smp"]) ++
  [.label "done"]

end Sys2Proof.Machine
end

