-- ==== Sys2Proof/Safety.lean ====
section
/-! DEFINITION. The terms claims are stated in: the invariant of the registers, the rational reading of the
curve (spec/41_acceleration_shaper.md R86, R87), and the host's duties of spec/70_reset_and_hazards.md as a
monitor beside the machine. -/

namespace Sys2Proof

/-- The SHAPE commands. -/
def Instr.isShape : Instr → Bool
  | .nop => false
  | .decode => false
  | .shapeX => true
  | .shapeY => true
  | .shapeXY => true

end Sys2Proof

namespace Sys2Proof.Machine

/-! ### Registers -/

/-- The reserved bits of every register read 0 because they hold 0 (10 R23, R27, R29, R31, R33; 92 D29). -/
def State.reservedZero (p : Params) (s : State) : Prop :=
  s.cfg &&& ~~~cfgMask = 0 ∧ s.now &&& ~~~(tsMask p) = 0 ∧ s.sample &&& ~~~sampleMask = 0 ∧
  s.lastTime &&& ~~~(tsMask p) = 0 ∧ s.stat &&& ~~~statMask = 0

/-- The registers of two states are the same; the boundary's record may differ. -/
def State.sameRegs (s t : State) : Prop :=
  s.cfg = t.cfg ∧ s.frameIn = t.frameIn ∧ s.now = t.now ∧ s.sample = t.sample ∧ s.lastTime = t.lastTime ∧
  s.stat = t.stat

/-- The boundary's record of two states is the same; the registers may differ. -/
def State.sameBoundary (s t : State) : Prop := s.inputs = t.inputs ∧ s.responses = t.responses

/-- The host's reads: the inputs the block answers with a value (20 R43 to R47). -/
def Input.isRead : Input → Bool
  | .bus (.read _ _) => true
  | .bus (.write _ _ _) => false
  | .reset => false
  | .foreign _ => false

/-- A bus error by the words of 20 R43: size not 4, offset not a multiple of 4, or offset 0x1C. -/
def isBusError (off : Offset) (size : Size) : Prop := size ≠ .four ∨ off.toNat % 4 ≠ 0 ∨ off = 0x1C

/-! ### The curve in rational numbers -/

/-- `q = d / (1 + abs(d)/T) * F / 2^FACTOR_FRAC`, exact (41 R86). -/
def curveQ (frac : Nat) (d : Int) (t f : Nat) : ℚ :=
  (d : ℚ) / (1 + |(d : ℚ)| / (t : ℚ)) * (f : ℚ) / (2 : ℚ) ^ frac

/-- `r = sign(q) * floor(abs(q) + 1/2)`: to the nearest integer, a half away from zero (41 R87). -/
def roundHalfAway (q : ℚ) : Int := (SignType.sign q : Int) * ⌊|q| + 1 / 2⌋

/-- One axis evaluation of PDAS v1, said from 41 R83 to R88 in rational numbers and apart from `shapeValue`:
for configuration `cfg` and elapsed time `elapsed`, the delta `d8` becomes `r8`, and `sat` says whether SAT is
raised. A pass-through returns the delta; otherwise the rounded curve value, clamped where it does not fit. -/
def axisSpec (cfg : Word) (elapsed : Int) (d8 r8 : Byte) (sat : Bool) : Prop :=
  let d := s8 d8
  let r := roundHalfAway (curveQ 8 d (threshold cfg) (factor cfg))
  (accelEn cfg = false ∨ |d| < threshold cfg ∨ 100 < elapsed → r8 = d8 ∧ sat = false) ∧
  (accelEn cfg = true → (threshold cfg : Int) ≤ |d| → elapsed ≤ 100 →
    (-128 ≤ r → r ≤ 127 → s8 r8 = r ∧ sat = false) ∧
    (127 < r → s8 r8 = 127 ∧ sat = true) ∧
    (r < -128 → s8 r8 = -128 ∧ sat = true))

/-- `(NOW - LAST_TIME) mod 2^32`: the elapsed time of PDAS v1 (41 R94). -/
def elapsedV1 (s : State) : Int := ((s.now.toNat : Int) - (s.lastTime.toNat : Int)) % 2 ^ 32

/-! ### The host's duties (70 R134 to R141) -/

/-- What the monitor remembers of the host's transactions since reset. -/
structure Duties where
  /-- CFG has been written -/
  cfgWritten : Bool
  /-- FRAME_IN has been written since the last DECODE -/
  frameNew : Bool
  /-- NOW has been written since the last SHAPE command -/
  nowNew : Bool
  /-- DX holds a delta that no SHAPE command has shaped: of a produced sample, or written by the host -/
  xFresh : Bool
  /-- the same of DY -/
  yFresh : Bool
  deriving DecidableEq, Repr

/-- The monitor at reset: nothing written, nothing to shape. -/
def Duties.reset : Duties := ⟨false, false, false, false, false⟩

/-- The command a transaction starts, if any (30 R56). -/
def startedCommand : Access → Option Instr
  | .write off size v => if selected off size = some .cmd then (decode v).instr? else none
  | .read _ _ => none

/-- The register a transaction writes, if any. -/
def writtenReg : Access → Option Reg
  | .write off size _ => selected off size
  | .read _ _ => none

/-- Does the host keep its duties with this command? DECODE needs a new frame (70 R141). A SHAPE needs the
configuration written (70 R137), an unshaped delta on each axis it shapes (70 R139), and a new NOW if it
starts a new sample, one of which no axis is shaped yet (70 R136). -/
def Duties.allowsCommand (d : Duties) : Instr → Bool
  | .nop => true
  | .decode => d.frameNew
  | .shapeX => d.cfgWritten && d.xFresh && (d.nowNew || !d.yFresh)
  | .shapeY => d.cfgWritten && d.yFresh && (d.nowNew || !d.xFresh)
  | .shapeXY => d.cfgWritten && d.xFresh && d.yFresh && d.nowNew

/-- Does the host keep its duties with this transaction? CFG is written once (70 R137); every transaction
reaches a register and no CMD value is illegal (20 R43, 30 R58). -/
def Duties.allows (d : Duties) (a : Access) : Bool :=
  match a with
  | .read off size => (selected off size).isSome
  | .write off size v =>
    match selected off size with
    | none => false
    | some .cfg => !d.cfgWritten
    | some .cmd => match decode v with
      | .command i => d.allowsCommand i
      | .illegal _ => false
    | some _ => true

/-- The monitor after a command that left SAMPLE at `sample`.
DESIGN CHOICE (log entry 10): a SHAPE refused with CFG_ERR counts for the host's duties as one performed, though
its delta is not shaped (41 R81). The host has spent its SHAPE of that sample and its NOW on it; the spec does
not say. -/
def Duties.afterCommand (d : Duties) (sample : Word) : Instr → Duties
  | .nop => d
  | .decode => { d with frameNew := false, xFresh := valid sample, yFresh := valid sample }
  | .shapeX => { d with nowNew := false, xFresh := false }
  | .shapeY => { d with nowNew := false, yFresh := false }
  | .shapeXY => { d with nowNew := false, xFresh := false, yFresh := false }

/-- The monitor after a transaction of the host that left the machine in `t`. -/
def Duties.after (d : Duties) (a : Access) (t : State) : Duties :=
  match writtenReg a with
  | some .cfg => { d with cfgWritten := true }
  | some .frameIn => { d with frameNew := true }
  | some .now => { d with nowNew := true }
  | some .sample => { d with xFresh := true, yFresh := true }
  | some .cmd => match startedCommand a with
    | some i => d.afterCommand t.sample i
    | none => d
  | some .lastTime => d
  | some .stat => d
  | none => d

end Sys2Proof.Machine
end

