-- ==== Sys2Proof/Certificates/Slice0/Obligations.lean ====
section
/-! DEFINITION. The statements for the provers. Each docstring names the rule of spec/ it formalises. -/

open Sys2Proof Sys2Proof.Machine

/-! ### Encoding -/

/-- 30 R57: the word of every well-formed command decodes to that command. -/
def Obligations.EncodeThenDecodeGivesCommand : Prop :=
  ∀ i : Instr, i.wf = true → decode (encode i) = .command i

/-- 30 R57, R58: a command has one word and no other word runs it. -/
def Obligations.DecodeAcceptsOnlyItsEncoding : Prop :=
  ∀ (w : Word) (i : Instr), decode w = .command i ↔ w = encode i

/-- 30 R69 (the spec marks it as derived): the decoder built from the opcode table alone is the decoder, and
every 32-bit value either names exactly one row or is illegal. -/
def Obligations.OpcodeTableDecoderIsComplete : Prop :=
  ∀ w : Word, tableDecode w = (decode w).instr? ∧
    ((∃ r ∈ opcodeTable, opcodeTable.filter (·.names w) = [r] ∧ decode w = .command r.instr) ∨
     (opcodeTable.filter (·.names w) = [] ∧ ∃ why, decode w = .illegal why))

/-- opcode_table.json: some words written out bit by bit. -/
def Obligations.WrittenOutWordsDecode : Prop :=
  decode 0b00000000000000000000000000000000#32 = .command .nop ∧
  decode 0b00000000000000000000000000000001#32 = .command .decode ∧
  decode 0b00000000000000000000000000000010#32 = .command .shapeX ∧
  decode 0b00000000000000000000000000000011#32 = .command .shapeY ∧
  decode 0b00000000000000000000000000000100#32 = .command .shapeXY ∧
  decode 0b00000000000000000000000000000101#32 = .illegal .reservedOp ∧
  decode 0b00000000000000000000000000010001#32 = .illegal .mustBeZero

/-- 30 R56: what a 4-byte write of v to CMD executes, by the MBZ field and then by OP. -/
def Obligations.CmdWriteDispatchesOnMbzThenOp : Prop :=
  ∀ (s : State) (v : Word) (rest : List Input), s.inputs = .bus (.write 0x0C .four v) :: rest →
    let s' := { s with inputs := rest }
    (v.extractLsb' 4 28 ≠ 0 → step s = .next { s' with stat := s.stat ||| 1 }) ∧
    (v.extractLsb' 4 28 = 0 →
      (v.extractLsb' 0 4 = 0x0 → step s = exec .nop s') ∧
      (v.extractLsb' 0 4 = 0x1 → step s = exec .decode s') ∧
      (v.extractLsb' 0 4 = 0x2 → step s = exec .shapeX s') ∧
      (v.extractLsb' 0 4 = 0x3 → step s = exec .shapeY s') ∧
      (v.extractLsb' 0 4 = 0x4 → step s = exec .shapeXY s') ∧
      (5 ≤ (v.extractLsb' 0 4).toNat → step s = .next { s' with stat := s.stat ||| 1 }))

/-- 10 R28, 30 R56: when the host's next transaction writes a word that decodes to a well-formed command, the
step is that command at the state with the transaction taken. -/
def Obligations.StepRunsTheDecodedCommand : Prop :=
  ∀ (s : State) (w : Word) (i : Instr) (rest : List Input), i.wf = true → decode w = .command i →
    s.inputs = .bus (.write 0x0C .four w) :: rest → step s = exec i { s with inputs := rest }

/-- 30 R58, 60 R111: a CMD value outside the opcode map raises ILLEGAL_CMD and has no other effect. -/
def Obligations.IllegalCommandWordOnlyRaisesIllegalCmd : Prop :=
  ∀ (s : State) (v : Word) (rest : List Input), s.inputs = .bus (.write 0x0C .four v) :: rest →
    (∀ i : Instr, v ≠ encode i) → step s = .next { s with inputs := rest, stat := s.stat ||| 1 }

/-! ### NOP and DECODE -/

/-- 42 R100: NOP has no effect; its CMD write is the same as no CMD write at all. -/
def Obligations.NopHasNoEffect : Prop :=
  decode 0x00000000 = .command .nop ∧ (∀ s : State, exec .nop s = .next s) ∧
  ∀ (s : State) (rest : List Input), s.inputs = .bus (.write 0x0C .four 0x00000000) :: rest →
    step s = .next { s with inputs := rest }

/-- 40 R71: a DECODE of the sentinel, or with data-ready clear, clears SAMPLE.VALID and changes nothing else;
the two causes leave the same state. -/
def Obligations.DecodeSkipOnlyClearsValid : Prop :=
  ∀ s : State, s.frameIn.extractLsb' 0 8 = 0xFF#8 ∨ s.frameIn.getLsbD 2 = false →
    exec .decode s = .next { s with sample := s.sample &&& ~~~0x01000000#32 }

/-- 40 R70 in PDAS v1: any other DECODE writes BUTTONS, DX, DY and VALID from the frame, and nothing else. -/
def Obligations.DecodeProducesTheSample : Prop :=
  ∀ s : State, s.frameIn.extractLsb' 0 8 ≠ 0xFF#8 → s.frameIn.getLsbD 2 = true →
    ∃ w : Word, exec .decode s = .next { s with sample := w } ∧
      w.extractLsb' 16 3 = s.frameIn.extractLsb' 8 3 ∧
      w.extractLsb' 0 8 = s.frameIn.extractLsb' 16 8 ||| (if s.frameIn.getLsbD 12 then 0x80 else 0) ∧
      w.extractLsb' 8 8 = s.frameIn.extractLsb' 24 8 ||| (if s.frameIn.getLsbD 13 then 0x80 else 0) ∧
      w.getLsbD 24 = true ∧ w &&& ~~~0x0107FFFF#32 = s.sample &&& ~~~0x0107FFFF#32

/-- 40 R72 and R73 for every choice of parameters: a produced sample's deltas are `M OR (sign << 7)`, in which
no bit but bit 7 differs from M and bit 7 is never cleared, read as two's complement; its buttons are
P0[BTN_LO+2 : BTN_LO], which is P0 bits 2:0 in PDAS v1. -/
def Obligations.DecodeForcesTheSignBitForEveryBuild : Prop :=
  ∀ (b : Build) (s : State), (s.frameIn.extractLsb' 0 8 : Byte) ≠ b.params.sentinel →
    (s.frameIn.extractLsb' 0 8 : Byte).getLsbD b.params.drBit = true →
    let p0 : Byte := s.frameIn.extractLsb' 8 8
    let p1 : Byte := s.frameIn.extractLsb' 16 8
    let p2 : Byte := s.frameIn.extractLsb' 24 8
    ∃ w : Word, commandOf b .decode s = { s with sample := w } ∧
      (∀ k : Nat, k < 7 → (dx w).getLsbD k = p1.getLsbD k ∧ (dy w).getLsbD k = p2.getLsbD k) ∧
      (dx w).getLsbD 7 = (p1.getLsbD 7 || p0.getLsbD b.params.xSignBit) ∧
      (dy w).getLsbD 7 = (p2.getLsbD 7 || p0.getLsbD b.params.ySignBit) ∧
      s8 (dx w) = (dx w).toInt ∧ s8 (dy w) = (dy w).toInt ∧
      (∀ k : Nat, k < 3 → (buttons w).getLsbD k = p0.getLsbD (b.params.btnLo + k)) ∧
      (b.params = pdasV1 → buttons w = p0.extractLsb' 0 3) ∧ valid w = true

/-- 40 R75 (derived by the spec): 0xFF has the data-ready bit set for every legal DR_BIT, and is a skip. -/
def Obligations.SentinelHasDataReadySetAndSkips : Prop :=
  ∀ (p : Params) (frame : Word), p.legal = true → p.sentinel = 0xFF → frame.extractLsb' 0 8 = 0xFF#8 →
    (frameStatus frame).getLsbD p.drBit = true ∧ frameSkipped p frame = true

/-- 40 R76 (derived by the spec): two states that differ only in ignored bits of FRAME_IN leave DECODE with
the same SAMPLE: when produced, only P0 bits 0, 1, 2, 4, 5 and P1, P2 matter; when skipped, none of them. -/
def Obligations.DecodeIgnoresTheOtherFrameBits : Prop :=
  ∀ (s : State) (f g : Word),
    (f.extractLsb' 0 8 ≠ 0xFF#8 ∧ f.getLsbD 2 = true ∧ g.extractLsb' 0 8 ≠ 0xFF#8 ∧ g.getLsbD 2 = true ∧
      f &&& 0xFFFF3700#32 = g &&& 0xFFFF3700#32) ∨
    ((f.extractLsb' 0 8 = 0xFF#8 ∨ f.getLsbD 2 = false) ∧
      (g.extractLsb' 0 8 = 0xFF#8 ∨ g.getLsbD 2 = false)) →
    ∃ w : Word, exec .decode { s with frameIn := f } = .next { s with frameIn := f, sample := w } ∧
      exec .decode { s with frameIn := g } = .next { s with frameIn := g, sample := w }

/-- 40 R77 (derived by the spec): a second DECODE of the same FRAME_IN leaves the state of the first, and
DECODE depends on no other register than FRAME_IN and SAMPLE. -/
def Obligations.DecodeIsIdempotentAndReadsOnlyTheFrame : Prop :=
  ∀ s u : State, u.frameIn = s.frameIn → u.sample = s.sample →
    ∃ w : Word, exec .decode s = .next { s with sample := w } ∧
      exec .decode { s with sample := w } = .next { s with sample := w } ∧
      exec .decode u = .next { u with sample := w }

/-- 40 R74 and R78 (the spec marks both as derived, R78 on its general-knowledge reading): the value of a
reconstructed delta, and what the reconstruction makes of a 9-bit two's-complement delta whose bit 8 is the
sign bit and whose low byte is M. -/
def Obligations.ReconstructedDeltaValue : Prop :=
  (∀ m : Byte,
    (m.toNat < 0x80 → s8 (reconstruct false m) = m.toNat) ∧
    (0x80 ≤ m.toNat → s8 (reconstruct false m) = (m.toNat : Int) - 256) ∧
    s8 (reconstruct true m) = ((m.extractLsb' 0 7).toNat : Int) - 128) ∧
  ∀ d : Int, -256 ≤ d → d ≤ 255 →
    (-128 ≤ d → d ≤ 127 → s8 (reconstruct (decide (d < 0)) (u8 d)) = d) ∧
    (128 ≤ d → s8 (reconstruct (decide (d < 0)) (u8 d)) = d - 256) ∧
    (d ≤ -129 → s8 (reconstruct (decide (d < 0)) (u8 d)) = d + 128)

/-! ### The shaper -/

/-- 41 R81, 60 R112: a SHAPE command with ACCEL_EN = 1 and THRESHOLD = 0 performs only `raise CFG_ERR`. -/
def Obligations.RefusedShapeOnlyRaisesCfgErr : Prop :=
  ∀ (i : Instr) (s : State), i.isShape = true → s.cfg.getLsbD 0 = true → s.cfg.extractLsb' 8 8 = 0#8 →
    exec i s = .next { s with stat := s.stat ||| 2 }

/-- 41 R83: with ACCEL_EN = 0 every SHAPE returns the deltas unchanged, whatever threshold, factor and
elapsed time are; only LAST_TIME moves (41 R82). -/
def Obligations.DisabledShapePassesThrough : Prop :=
  ∀ (i : Instr) (s : State), i.isShape = true → s.cfg.getLsbD 0 = false →
    exec i s = .next { s with lastTime := s.now }

/-- 41 R82 to R85 and R88, `shape_axis` of every build: the timestamp update in every branch with the elapsed
time taken before it, the three pass-through branches in order, and a curve result kept where it fits,
clamped or wrapped with SAT raised where it does not; the example of R88 gives 267. -/
def Obligations.ShapeAxisFollowsItsBranches : Prop :=
  exactCurve 8 100 50 0x0800 = 267 ∧
  ∀ (b : Build) (d8 : Byte) (s : State),
    let d := s8 d8
    let elapsed := (((s.now.toNat : Int) - (s.lastTime.toNat : Int)) % (2 : Int) ^ b.params.tsW)
    let r := b.curve d (threshold s.cfg) (factor s.cfg)
    let passed : Byte × State := (d8, { s with lastTime := s.now })
    let overflowed (v : Int) : Byte × State := (u8 v, { s with lastTime := s.now, stat := s.stat ||| 8 })
    (accelEn s.cfg = false → shapeAxis b d8 s = passed) ∧
    (|d| < threshold s.cfg → shapeAxis b d8 s = passed) ∧
    ((b.params.staleLimit : Int) < elapsed → shapeAxis b d8 s = passed) ∧
    (accelEn s.cfg = true → (threshold s.cfg : Int) ≤ |d| → elapsed ≤ b.params.staleLimit →
      (-128 ≤ r → r ≤ 127 → shapeAxis b d8 s = (u8 r, { s with lastTime := s.now })) ∧
      (127 < r → b.params.ovfMode = .sat → shapeAxis b d8 s = overflowed 127) ∧
      (r < -128 → b.params.ovfMode = .sat → shapeAxis b d8 s = overflowed (-128)) ∧
      (r < -128 ∨ 127 < r → b.params.ovfMode = .wrap → shapeAxis b d8 s = overflowed r))

/-- 41 R90: what SHAPE_X does when it is not refused, all of it: DX by the axis specification, LAST_TIME at
NOW, SAT raised or STAT unchanged, every other bit of every register unchanged. -/
def Obligations.ShapeXShapesOnlyDx : Prop :=
  ∀ s : State, ¬ (s.cfg.getLsbD 0 = true ∧ s.cfg.extractLsb' 8 8 = 0#8) →
    ∃ (w : Word) (x : Bool),
      exec .shapeX s = .next { s with
        sample := w, lastTime := s.now, stat := if x then s.stat ||| 8 else s.stat } ∧
      axisSpec s.cfg (elapsedV1 s) (dx s.sample) (dx w) x ∧
      w &&& ~~~0x000000FF#32 = s.sample &&& ~~~0x000000FF#32

/-- 41 R91: what SHAPE_Y does when it is not refused, all of it. -/
def Obligations.ShapeYShapesOnlyDy : Prop :=
  ∀ s : State, ¬ (s.cfg.getLsbD 0 = true ∧ s.cfg.extractLsb' 8 8 = 0#8) →
    ∃ (w : Word) (y : Bool),
      exec .shapeY s = .next { s with
        sample := w, lastTime := s.now, stat := if y then s.stat ||| 8 else s.stat } ∧
      axisSpec s.cfg (elapsedV1 s) (dy s.sample) (dy w) y ∧
      w &&& ~~~0x0000FF00#32 = s.sample &&& ~~~0x0000FF00#32

/-- 41 R92: what SHAPE_XY does when it is not refused, all of it: X with the elapsed time, Y with elapsed 0
(so Y is never stale), one SAT bit for both. -/
def Obligations.ShapeXYShapesYAtElapsedZero : Prop :=
  ∀ s : State, ¬ (s.cfg.getLsbD 0 = true ∧ s.cfg.extractLsb' 8 8 = 0#8) →
    ∃ (w : Word) (x y : Bool),
      exec .shapeXY s = .next { s with
        sample := w, lastTime := s.now, stat := if x || y then s.stat ||| 8 else s.stat } ∧
      axisSpec s.cfg (elapsedV1 s) (dx s.sample) (dx w) x ∧
      axisSpec s.cfg 0 (dy s.sample) (dy w) y ∧
      w &&& ~~~0x0000FFFF#32 = s.sample &&& ~~~0x0000FFFF#32

/-- 70 R138, the shared timestamp: SHAPE_XY evaluates Y at elapsed 0; SHAPE_X and then SHAPE_Y with no NOW
write between is SHAPE_XY, refused or not; with NOW written v between, Y sees the time between the two
writes; SHAPE_Y and then SHAPE_X is the mirror image, X seeing elapsed 0. -/
def Obligations.AxesShareTheTimestamp : Prop :=
  (∀ s : State, ∃ t u : State,
    exec .shapeX s = .next t ∧ exec .shapeY t = .next u ∧ exec .shapeXY s = .next u) ∧
  ∀ s : State, ¬ (s.cfg.getLsbD 0 = true ∧ s.cfg.extractLsb' 8 8 = 0#8) →
    (∃ (t : State) (y : Bool), exec .shapeXY s = .next t ∧
      axisSpec s.cfg 0 (dy s.sample) (dy t.sample) y) ∧
    (∀ v : Word, ∃ (t u : State) (y : Bool), exec .shapeX s = .next t ∧
      exec .shapeY { t with now := v } = .next u ∧
      axisSpec s.cfg (((v.toNat : Int) - (s.now.toNat : Int)) % 2 ^ 32) (dy s.sample) (dy u.sample) y) ∧
    (∃ (t u : State) (x y : Bool), exec .shapeY s = .next t ∧ exec .shapeX t = .next u ∧
      axisSpec s.cfg (elapsedV1 s) (dy s.sample) (dy u.sample) y ∧
      axisSpec s.cfg 0 (dx s.sample) (dx u.sample) x ∧
      u.stat = (if x || y then s.stat ||| 8 else s.stat) ∧ u.lastTime = s.now)

/-- 41 R93: SHAPE commands neither read nor write VALID and BUTTONS: with any other values of the two, the
command does the same to everything else and leaves those values as they are. -/
def Obligations.ShapeNeitherReadsNorWritesValidAndButtons : Prop :=
  ∀ (i : Instr) (s : State), i.isShape = true → ∃ t : State, exec i s = .next t ∧
    valid t.sample = valid s.sample ∧ buttons t.sample = buttons s.sample ∧
    ∀ (n : BitVec 3) (v : Bool),
      exec i { s with sample := setValid (setButtons s.sample n) v } =
        .next { t with sample := setValid (setButtons t.sample n) v }

/-- 41 R86 and R87: the curve is the exact rational value rounded to nearest, a half away from zero, and both
closed forms of the spec agree with it, for every FACTOR_FRAC. From the threshold on d is not 0 and the divisor
is positive; q has the sign of d, or is 0 when F is. -/
def Obligations.CurveIsTheRoundedRational : Prop :=
  roundHalfAway (3 / 2) = 2 ∧ roundHalfAway (-3 / 2) = -2 ∧
  ∀ (frac : Nat) (d : Int) (t f : Nat), 1 ≤ t →
    curveQ frac d t f = ((d : ℚ) * t * f) / ((2 : ℚ) ^ frac * ((t : ℚ) + |(d : ℚ)|)) ∧
    0 < (2 : ℚ) ^ frac * ((t : ℚ) + |(d : ℚ)|) ∧ ((t : Int) ≤ |d| → d ≠ 0) ∧
    (0 < f → (SignType.sign (curveQ frac d t f) : Int) = d.sign) ∧ curveQ frac d t 0 = 0 ∧
    exactCurve frac d t f = roundHalfAway (curveQ frac d t f) ∧
    exactCurve frac d t f = d.sign *
      ⌊((2 * (|(d : ℚ)| * t * f) + (2 : ℚ) ^ frac * ((t : ℚ) + |(d : ℚ)|)) /
        (2 * ((2 : ℚ) ^ frac * ((t : ℚ) + |(d : ℚ)|))))⌋

/-- 41 R89 (a) and (g) (derived by the spec): the result has the sign of the delta or is 0, and the curve is
odd. -/
def Obligations.CurveKeepsTheSignAndIsOdd : Prop :=
  ∀ (frac : Nat) (d : Int) (t f : Nat), 1 ≤ t →
    (exactCurve frac d t f = 0 ∨ (exactCurve frac d t f).sign = d.sign) ∧
    exactCurve frac (-d) t f = -exactCurve frac d t f

/-- 41 R89 (b) and (c) (derived by the spec): the curve stays below threshold times factor, and does not
decrease as the delta grows in magnitude. The same of the machine's rounded curve: its magnitude does not
decrease, and is at most threshold times factor and a half. -/
def Obligations.CurveIsMonotoneBelowItsAsymptote : Prop :=
  ∀ (frac : Nat) (d e : Int) (t f : Nat), 1 ≤ t →
    (0 < f → |curveQ frac d t f| < (t : ℚ) * f / (2 : ℚ) ^ frac) ∧ curveQ frac d t 0 = 0 ∧
    (|d| ≤ |e| → |curveQ frac d t f| ≤ |curveQ frac e t f|) ∧
    (|d| ≤ |e| → |exactCurve frac d t f| ≤ |exactCurve frac e t f|) ∧
    (|exactCurve frac d t f| : ℚ) ≤ (t : ℚ) * f / (2 : ℚ) ^ frac + 1 / 2

/-- 41 R89 (d) and (e) (derived by the spec): from the threshold on, the curve's gain is at most half the
factor, with equality exactly at the threshold for a nonzero factor; factor 2.0 returns the threshold. -/
def Obligations.CurveGainIsAtMostHalfTheFactor : Prop :=
  ∀ (frac : Nat) (d : Int) (t f : Nat), 1 ≤ t → (t : Int) ≤ |d| →
    |curveQ frac d t f| ≤ |(d : ℚ)| * ((f : ℚ) / (2 : ℚ) ^ frac) / 2 ∧
    (0 < f → (|curveQ frac d t f| = |(d : ℚ)| * ((f : ℚ) / (2 : ℚ) ^ frac) / 2 ↔ |d| = t)) ∧
    (|d| = t → curveQ frac d t f = (d : ℚ) * f / (2 : ℚ) ^ (frac + 1)) ∧
    (|d| = t → exactCurve frac d t (2 ^ (frac + 1)) = d)

/-- 92 D12 on 41 R89 (d) (derived by the spec): a SHAPE with a factor of at most 2.0 never raises SAT and
never amplifies a delta. -/
def Obligations.FactorUpToTwoNeverOverflows : Prop :=
  ∀ (i : Instr) (s : State), (s.cfg.extractLsb' 16 16).toNat ≤ 0x0200 →
    ∃ t : State, exec i s = .next t ∧ statHas .sat t.stat = statHas .sat s.stat ∧
      (i.isShape = true → |s8 (dx t.sample)| ≤ |s8 (dx s.sample)| ∧ |s8 (dy t.sample)| ≤ |s8 (dy s.sample)|)

/-- 41 R94: elapsed time is modular: it is below 2^TS_W, and it is the true gap whenever that gap is, whether
or not NOW has wrapped. -/
def Obligations.ElapsedIsTheGapModuloTheTimeWidth : Prop :=
  ∀ (p : Params) (now last : Word), p.legal = true →
    elapsedTime p now last < 2 ^ p.tsW ∧
    (∀ gap : Nat, gap < 2 ^ p.tsW → now.toNat = (last.toNat + gap) % 2 ^ p.tsW →
      elapsedTime p now last = gap) ∧
    (now.toNat < last.toNat → last.toNat < 2 ^ p.tsW →
      elapsedTime p now last = 2 ^ p.tsW - (last.toNat - now.toNat))

/-- 41 R95 (derived by the spec): with LAST_TIME at its reset value 0, a SHAPE command whose first delta
reaches the staleness test is stale there, and returns that delta, when NOW > 100, and takes the curve when NOW
is in 0..100. The first delta is DX of SHAPE_X and SHAPE_XY, and DY of SHAPE_Y. -/
def Obligations.FirstShapeIsStaleWhenNowExceedsHundred : Prop :=
  ∀ s : State, s.lastTime = 0 → accelEn s.cfg = true → 1 ≤ threshold s.cfg →
    let shaped (d8 : Byte) : Int :=
      max (-128) (min 127 (roundHalfAway (curveQ 8 (s8 d8) (threshold s.cfg) (factor s.cfg))))
    ((threshold s.cfg : Int) ≤ |s8 (dx s.sample)| →
      (100 < s.now.toNat → exec .shapeX s = .next { s with lastTime := s.now } ∧
        ∃ t : State, exec .shapeXY s = .next t ∧ dx t.sample = dx s.sample) ∧
      (s.now.toNat ≤ 100 →
        (∃ t : State, exec .shapeX s = .next t ∧ s8 (dx t.sample) = shaped (dx s.sample)) ∧
        ∃ t : State, exec .shapeXY s = .next t ∧ s8 (dx t.sample) = shaped (dx s.sample))) ∧
    ((threshold s.cfg : Int) ≤ |s8 (dy s.sample)| →
      (100 < s.now.toNat → exec .shapeY s = .next { s with lastTime := s.now }) ∧
      (s.now.toNat ≤ 100 →
        ∃ t : State, exec .shapeY s = .next t ∧ s8 (dy t.sample) = shaped (dy s.sample)))

/-- 41 R96 (derived by the spec): thresholds of 129 and above pass every delta through; threshold 1 with
factor 1.0 gives the delta's sign; factor 0 gives 0. -/
def Obligations.ThresholdAndFactorCorners : Prop :=
  (∀ (i : Instr) (s : State), i.isShape = true → 129 ≤ (s.cfg.extractLsb' 8 8).toNat →
    exec i s = .next { s with lastTime := s.now }) ∧
  (∀ d : Int, exactCurve 8 d 1 0x0100 = d.sign) ∧
  (∀ (frac : Nat) (d : Int) (t : Nat), 1 ≤ t → exactCurve frac d t 0 = 0)

/-! ### The bus -/

/-- 20 R41 to R43, 60 R113: an access of a size other than 4, at an offset that is no multiple of 4, or at
0x1C raises BUS_ERR; a read returns 0; a write changes no register and executes nothing, at 0x0C too. -/
def Obligations.BusErrorRaisesBusErrAndDoesNothingElse : Prop :=
  ∀ (s : State) (off : Offset) (size : Size) (rest : List Input),
    size ≠ .four ∨ off.toNat % 4 ≠ 0 ∨ off = 0x1C →
    (s.inputs = .bus (.read off size) :: rest →
      step s = .next { s with inputs := rest, stat := s.stat ||| 4, responses := s.responses ++ [0] }) ∧
    (∀ v : Word, s.inputs = .bus (.write off size v) :: rest →
      step s = .next { s with inputs := rest, stat := s.stat ||| 4 })

/-- 20 R44: CFG, FRAME_IN, NOW and SAMPLE. A read returns the register with every reserved bit 0; a write
sets the defined bits; neither has any other effect. -/
def Obligations.ReadWriteRegistersKeepTheirDefinedBits : Prop :=
  ∀ (s : State) (v : Word) (rest : List Input),
    (s.inputs = .bus (.read 0x00 .four) :: rest → step s = .next { s with
      inputs := rest, responses := s.responses ++ [s.cfg &&& 0xFFFFFF01] }) ∧
    (s.inputs = .bus (.read 0x04 .four) :: rest → step s = .next { s with
      inputs := rest, responses := s.responses ++ [s.frameIn] }) ∧
    (s.inputs = .bus (.read 0x08 .four) :: rest → step s = .next { s with
      inputs := rest, responses := s.responses ++ [s.now] }) ∧
    (s.inputs = .bus (.read 0x10 .four) :: rest → step s = .next { s with
      inputs := rest, responses := s.responses ++ [s.sample &&& 0x0107FFFF] }) ∧
    (s.inputs = .bus (.write 0x00 .four v) :: rest → step s = .next { s with
      inputs := rest, cfg := v &&& 0xFFFFFF01 }) ∧
    (s.inputs = .bus (.write 0x04 .four v) :: rest → step s = .next { s with
      inputs := rest, frameIn := v }) ∧
    (s.inputs = .bus (.write 0x08 .four v) :: rest → step s = .next { s with
      inputs := rest, now := v }) ∧
    (s.inputs = .bus (.write 0x10 .four v) :: rest → step s = .next { s with
      inputs := rest, sample := v &&& 0x0107FFFF })

/-- 20 R45: LAST_TIME. A read returns it; a write is ignored and raises no error. -/
def Obligations.LastTimeIsReadOnly : Prop :=
  ∀ (s : State) (v : Word) (rest : List Input),
    (s.inputs = .bus (.read 0x14 .four) :: rest → step s = .next { s with
      inputs := rest, responses := s.responses ++ [s.lastTime] }) ∧
    (s.inputs = .bus (.write 0x14 .four v) :: rest → step s = .next { s with inputs := rest })

/-- 20 R46: CMD. A read returns 0 and has no effect; a write executes the command it names, and a write that
names none is the illegal command of 30 R58. -/
def Obligations.CmdReadsZeroAndWritesExecute : Prop :=
  ∀ (s : State) (rest : List Input),
    (s.inputs = .bus (.read 0x0C .four) :: rest → step s = .next { s with
      inputs := rest, responses := s.responses ++ [0] }) ∧
    (∀ i : Instr, s.inputs = .bus (.write 0x0C .four (encode i)) :: rest →
      step s = exec i { s with inputs := rest }) ∧
    (∀ v : Word, (∀ i : Instr, v ≠ encode i) → s.inputs = .bus (.write 0x0C .four v) :: rest →
      step s = .next (raise .illegalCmd { s with inputs := rest }))

/-- 20 R47: STAT. A read returns it; a write of v clears the defined bits v has set, leaves the others, and
ignores bits 31:4 of v. -/
def Obligations.StatIsWriteOneToClear : Prop :=
  ∀ (s : State) (v : Word) (rest : List Input),
    (s.inputs = .bus (.read 0x18 .four) :: rest → step s = .next { s with
      inputs := rest, responses := s.responses ++ [s.stat &&& 0x0000000F] }) ∧
    (s.inputs = .bus (.write 0x18 .four v) :: rest → step s = .next { s with
      inputs := rest, stat := s.stat &&& ~~~(v &&& 0x0000000F) })

/-- 20 R52, 70 R142: a read that follows a write of CFG, FRAME_IN, NOW or SAMPLE returns what was written, in
its defined bits. -/
def Obligations.ReadAfterWriteReturnsTheWrittenBits : Prop :=
  ∀ (s : State) (r : Reg) (v : Word) (rest : List Input), r = .cfg ∨ r = .frameIn ∨ r = .now ∨ r = .sample →
    s.inputs = .bus (.write (regOffset r) .four v) :: .bus (.read (regOffset r) .four) :: rest →
    ∃ t u : State, step s = .next t ∧ step t = .next u ∧ u.inputs = rest ∧
      u.responses = s.responses ++
        [v &&& (match r with | .cfg => 0xFFFFFF01#32 | .sample => 0x0107FFFF#32 | _ => 0xFFFFFFFF#32)]

/-- 20 R49: a read of a register, STAT and CMD among them, changes no register; a write repeated at once to
any register but CMD changes none the second time. -/
def Obligations.ReadsHaveNoSideEffectAndWritesAreIdempotent : Prop :=
  (∀ (s : State) (r : Reg) (rest : List Input), s.inputs = .bus (.read (regOffset r) .four) :: rest →
    ∃ t : State, step s = .next t ∧ s.sameRegs t) ∧
  (∀ (s : State) (r : Reg) (v : Word) (rest : List Input), r ≠ .cmd →
    s.inputs = .bus (.write (regOffset r) .four v) :: .bus (.write (regOffset r) .four v) :: rest →
    ∃ t u : State, step s = .next t ∧ step t = .next u ∧ t.sameRegs u)

/-- 20 R48: a host that lays the status byte and the three frame bytes at rising addresses and loads them as
one little-endian word has built the FRAME_IN value; every word is the load of its own lanes. -/
def Obligations.FrameLanesAreLittleEndian : Prop :=
  (∀ s p0 p1 p2 : Byte, let w := wordOfLanes s p0 p1 p2
    frameStatus w = s ∧ frameP0 w = p0 ∧ frameP1 w = p1 ∧ frameP2 w = p2) ∧
  ∀ w : Word, wordOfLanes (lane w 0) (lane w 1) (lane w 2) (lane w 3) = w ∧
    ∀ (k i : Nat), k < 4 → i < 8 → (lane w k).getLsbD i = w.getLsbD (8 * k + i)

/-- 20 R40: the bus addresses that select PDAS are BASE to BASE + 0x1F, each at its own offset. -/
def Obligations.WindowSelectsExactlyItsAddresses : Prop :=
  (∀ off : Offset, windowOffset (busAddress off) = some off) ∧
  ∀ addr : Nat, (windowOffset addr = none ↔ addr < Config.base ∨ Config.base + 0x1F < addr) ∧
    ∀ off : Offset, windowOffset addr = some off → addr = Config.base + off.toNat

/-! ### Errors -/

/-- 10 R33: a STAT bit is sticky. A step that clears one took a reset, or a host write to STAT with a 1 in
that bit. -/
def Obligations.StatBitsAreSticky : Prop :=
  ∀ (s t : State) (e : Error), step s = .next t → statHas e s.stat = true → statHas e t.stat = false →
    (∃ rest, s.inputs = .reset :: rest) ∨
    (∃ v rest, s.inputs = .bus (.write 0x18 .four v) :: rest ∧ statHas e v = true)

/-- 60 R110, 10 R33: a step sets a STAT bit only by its cause. -/
def Obligations.EachErrorHasItsCause : Prop :=
  ∀ (s t : State) (e : Error), step s = .next t → statHas e s.stat = false → statHas e t.stat = true →
    match e with
    | .illegalCmd => ∃ v rest, s.inputs = .bus (.write 0x0C .four v) :: rest ∧ ∀ i, v ≠ encode i
    | .cfgErr => ∃ i rest, i.isShape = true ∧ s.inputs = .bus (.write 0x0C .four (encode i)) :: rest ∧
        accelEn s.cfg = true ∧ threshold s.cfg = 0
    | .busErr => ∃ off size rest, isBusError off size ∧
        (s.inputs = .bus (.read off size) :: rest ∨ ∃ v, s.inputs = .bus (.write off size v) :: rest)
    | .sat => ∃ i rest, i.isShape = true ∧ s.inputs = .bus (.write 0x0C .four (encode i)) :: rest ∧
        accelEn s.cfg = true ∧ 1 ≤ threshold s.cfg ∧ 0x0200 < factor s.cfg

/-- 60 R117 (derived by the spec): a transaction sets at most one of ILLEGAL_CMD, CFG_ERR and BUS_ERR, and
SAT only when it set none of those. -/
def Obligations.AtMostOneErrorPerTransaction : Prop :=
  ∀ (s t : State) (e f : Error), step s = .next t →
    statHas e s.stat = false → statHas e t.stat = true →
    statHas f s.stat = false → statHas f t.stat = true → e = f

/-- 60 R118: ILLEGAL_CMD, CFG_ERR and BUS_ERR are precise: after a step that sets one, every register but
STAT is as before, and STAT differs in that bit only. -/
def Obligations.CancellingErrorsArePrecise : Prop :=
  ∀ (s t : State) (e : Error), e ≠ .sat → step s = .next t →
    statHas e s.stat = false → statHas e t.stat = true →
    s.sameRegs { t with stat := s.stat } ∧ t.stat = s.stat ||| (1#32 <<< errorBit e)

/-- 60 R110, 70 R131: the block keeps accepting transactions. With none it waits (log entry 2: a step then
changes nothing). A step goes on for every input but one the model does not admit, the transaction of a
second master (93 I13, log entry 6), and takes exactly that input. -/
def Obligations.StepGoesOnForEveryAdmittedInput : Prop :=
  (∀ s : State, s.inputs = [] → step s = .next s) ∧
  ∀ (s : State) (x : Input) (rest : List Input), s.inputs = x :: rest →
    ((∀ a, x ≠ .foreign a) → ∃ t : State, step s = .next t ∧ t.inputs = rest) ∧
    (∀ a, x = .foreign a → step s = .fault .secondMaster)

/-- 20 R52, 70 R133: the pending inputs are performed one a step, in order, and none is lost. For every k up
to their number, k steps go on and have taken exactly the first k; the host has been answered once for each
read among those, after what it had; and the next step is the transaction, or the reset, that stands next. -/
def Obligations.RunPerformsEveryPendingInput : Prop :=
  ∀ (s : State) (k : Nat), (∀ a, Input.foreign a ∉ s.inputs) → k ≤ s.inputs.length →
    ∃ t : State, core.run k s = .next t ∧ t.inputs = s.inputs.drop k ∧
      (∃ rs, t.responses = s.responses ++ rs ∧ rs.length = (s.inputs.take k).countP Input.isRead) ∧
      (∀ a rest, s.inputs.drop k = .bus a :: rest →
        core.run (k + 1) s = transact pdasV1 exec a { t with inputs := rest }) ∧
      (∀ rest, s.inputs.drop k = .reset :: rest →
        core.run (k + 1) s = .next (resetBlock pdasV1 { t with inputs := rest }))

/-! ### Who writes what -/

/-- 10 R31: LAST_TIME moves only by reset or by an executed SHAPE command, and then to NOW. -/
def Obligations.OnlyShapeAndResetMoveLastTime : Prop :=
  ∀ s t : State, step s = .next t → t.lastTime ≠ s.lastTime →
    (∃ rest, s.inputs = .reset :: rest ∧ t.lastTime = 0) ∨
    (∃ i rest, i.isShape = true ∧ s.inputs = .bus (.write 0x0C .four (encode i)) :: rest ∧
      ¬ (accelEn s.cfg = true ∧ threshold s.cfg = 0) ∧ t.lastTime = s.now)

/-- 10 R25 to R27: CFG, FRAME_IN and NOW change only by reset or by a host write to that register; no command
changes one. -/
def Obligations.OnlyTheHostWritesCfgFrameInAndNow : Prop :=
  ∀ s t : State, step s = .next t → (∀ rest, s.inputs ≠ .reset :: rest) →
    (t.cfg ≠ s.cfg → ∃ v rest, s.inputs = .bus (.write 0x00 .four v) :: rest) ∧
    (t.frameIn ≠ s.frameIn → ∃ v rest, s.inputs = .bus (.write 0x04 .four v) :: rest) ∧
    (t.now ≠ s.now → ∃ v rest, s.inputs = .bus (.write 0x08 .four v) :: rest)

/-- 10 R29, 30 R57: SAMPLE changes only by reset, a host write, DECODE or an executed SHAPE; VALID and
BUTTONS by no SHAPE. -/
def Obligations.OnlyDecodeShapeAndHostWriteSample : Prop :=
  ∀ s t : State, step s = .next t → t.sample ≠ s.sample →
    (∃ rest, s.inputs = .reset :: rest) ∨
    (∃ v rest, s.inputs = .bus (.write 0x10 .four v) :: rest) ∨
    (∃ rest, s.inputs = .bus (.write 0x0C .four (encode .decode)) :: rest) ∨
    (∃ i rest, i.isShape = true ∧ s.inputs = .bus (.write 0x0C .four (encode i)) :: rest ∧
      valid t.sample = valid s.sample ∧ buttons t.sample = buttons s.sample)

/-! ### Reset and the invariant -/

/-- 10 R34: the state after reset. -/
def Obligations.ResetGivesEveryRegisterItsValue : Prop :=
  State.reset.cfg = 0 ∧ State.reset.frameIn = 0 ∧ State.reset.now = 0 ∧ State.reset.sample = 0 ∧
  State.reset.lastTime = 0 ∧ State.reset.stat = 0

/-- 70 R130: a reset between two transactions gives every register its reset value; the transactions behind
it are performed afterwards (log entry 5: the boundary's record is not the block's). -/
def Obligations.ResetInputRestoresEveryRegister : Prop :=
  ∀ (s : State) (rest : List Input), s.inputs = .reset :: rest →
    step s = .next { State.reset with inputs := rest, responses := s.responses }

/-- 10 R23, R27, R29, R31, R33: the reserved bits of every register hold 0 after reset. -/
def Obligations.ResetHasReservedBitsZero : Prop :=
  State.reset.reservedZero pdasV1 ∧ ∀ p : Params, (State.resetWith p).reservedZero p

/-- 10 R23, R27, R29, R31, R33, 92 D29: every step keeps the reserved bits of every register 0, so that a
read returns exactly what the register holds. -/
def Obligations.StepKeepsReservedBitsZero : Prop :=
  ∀ s t : State, s.reservedZero pdasV1 → step s = .next t →
    t.reservedZero pdasV1 ∧ readReg pdasV1 .cfg t = t.cfg ∧ readReg pdasV1 .now t = t.now ∧
      readReg pdasV1 .sample t = t.sample ∧ readReg pdasV1 .lastTime t = t.lastTime ∧
      readReg pdasV1 .stat t = t.stat

/-- The same for a machine built with any parameters 00 R7 admits and any curve. -/
def Obligations.EveryBuildKeepsReservedBitsZero : Prop :=
  ∀ (b : Build) (s t : State), s.reservedZero b.params → stepBy b s = .next t → t.reservedZero b.params

/-- 00 R7: a machine is refused exactly when its parameters break one of the conditions of that rule, spelt
out here, and PDAS v1 breaks none: its step is the general step at the PDAS v1 values. -/
def Obligations.PdasV1IsALegalBuild : Prop :=
  (∀ (b : Build) (s : State), let p := b.params
    stepBy b s = .refused .illegalParameters ↔
      ¬ (p.drBit ≤ 7 ∧ p.xSignBit ≤ 7 ∧ p.ySignBit ≤ 7 ∧ p.xSignBit ≠ p.ySignBit ∧ p.btnLo ≤ 5 ∧
        8 ≤ p.tsW ∧ p.tsW ≤ 32 ∧ p.factorFrac ≤ 16)) ∧
  ∀ s : State, stepBy buildV1 s = step s

/-! ### The host -/

/-- 30 R67: every pseudo-instruction is the one transaction the table gives it, and the words it computes
hold the named values in the named fields. -/
def Obligations.PseudoInstructionsExpandAsTheTableSays : Prop :=
  psNop.transaction = some (.write 0x0C .four 0x00000000) ∧
  psDecode.transaction = some (.write 0x0C .four 0x00000001) ∧
  psShapeX.transaction = some (.write 0x0C .four 0x00000002) ∧
  psShapeY.transaction = some (.write 0x0C .four 0x00000003) ∧
  psShapeXY.transaction = some (.write 0x0C .four 0x00000004) ∧
  psClrStat.transaction = some (.write 0x18 .four 0x0000000F) ∧
  (∀ v : Word, (psSetNow v).transaction = some (.write 0x08 .four v)) ∧
  (∀ (en : BitVec 1) (t : Byte) (f : BitVec 16), ∃ w : Word,
    (psSetCfg en t f).transaction = some (.write 0x00 .four w) ∧
    w.toNat = f.toNat * 2 ^ 16 + t.toNat * 2 ^ 8 + en.toNat ∧
    accelEn w = (en == 1) ∧ threshold w = t.toNat ∧ factor w = f.toNat) ∧
  (∀ s p0 p1 p2 : Byte, ∃ w : Word,
    (psFrame s p0 p1 p2).transaction = some (.write 0x04 .four w) ∧
    w.toNat = p2.toNat * 2 ^ 24 + p1.toNat * 2 ^ 16 + p0.toNat * 2 ^ 8 + s.toNat ∧
    frameStatus w = s ∧ frameP0 w = p0 ∧ frameP1 w = p1 ∧ frameP2 w = p2) ∧
  (∀ x y : Int, -128 ≤ x → x ≤ 127 → -128 ≤ y → y ≤ 127 → ∃ w : Word,
    (psSetDelta x y).transaction = some (.write 0x10 .four w) ∧
    (w.toNat : Int) = y % 256 * 2 ^ 8 + x % 256 ∧
    s8 (dx w) = x ∧ s8 (dy w) = y ∧ buttons w = 0 ∧ valid w = false)

/-- 30 R66: labels, comments and IF exist only in the host: such a line leaves the machine as it is. -/
def Obligations.HostOnlyLinesLeaveTheMachineAlone : Prop :=
  ∀ (d e : Driver) (s t : State) (l : Line), l.transaction = none → lineStep d s l = .next e t → t = s

/-- A well-formed script (log entry 8) never stops for want of a label. -/
def Obligations.WellFormedScriptFindsItsLabels : Prop :=
  ∀ (d : Driver) (s : State) (l : String), scriptWf d.script = true → driverStep d s ≠ .noLabel l

/-- 70 R137: a host that keeps its duties writes CFG once: from then on the configuration does not change
but by reset (the monitor is the model's reading of the duties, log entry 10). -/
def Obligations.DutifulHostNeverChangesCfgAgain : Prop :=
  ∀ (d : Duties) (s t : State) (a : Access) (rest : List Input), s.inputs = .bus a :: rest →
    d.cfgWritten = true → d.allows a = true → step s = .next t →
    t.cfg = s.cfg ∧ (d.after a t).cfgWritten = true

/-- 70 R134 to R141: a host that keeps its duties never sets ILLEGAL_CMD or BUS_ERR. After DECODE both deltas
count as unshaped exactly when the sample is valid, and each SHAPE command is allowed next exactly when the
sample is valid, CFG has been written, and NOW has been written since the last SHAPE (log entry 10). -/
def Obligations.DutifulHostRaisesNoInterfaceError : Prop :=
  ∀ (d : Duties) (s : State) (a : Access) (rest : List Input), s.inputs = .bus a :: rest →
    d.allows a = true → ∃ t : State, step s = .next t ∧
      statHas .illegalCmd t.stat ≤ statHas .illegalCmd s.stat ∧ statHas .busErr t.stat ≤ statHas .busErr s.stat ∧
      (a = .write 0x0C .four (encode .decode) →
        (d.after a t).xFresh = valid t.sample ∧ (d.after a t).yFresh = valid t.sample ∧
        ∀ i : Instr, i.isShape = true →
          (d.after a t).allowsCommand i = (d.cfgWritten && d.nowNew && valid t.sample))
end

