-- ==== Sys2Proof/Laws/Decode.lean ====
section
/-! SUPPORT. What the decoder does, by its two fields. -/

namespace Sys2Proof

/-- A word is its MBZ field above its OP field. -/
theorem word_eq_fields (w : Word) : w.toNat = (mbzField w).toNat * 16 + (opField w).toNat := by
  have h := w.isLt
  simp only [mbzField, opField, BitVec.extractLsb'_toNat, Nat.shiftRight_eq_div_pow]
  omega

theorem decode_of_mbz {w : Word} (h : mbzField w ≠ 0) : decode w = .illegal .mustBeZero := by
  rw [decode, if_pos h]

theorem decode_of_mbz_zero {w : Word} (h : mbzField w = 0) : decode w = decodeOp (opField w) := by
  rw [decode, if_neg (by simpa using h)]

/-- With MBZ zero the word is its OP field. -/
theorem toNat_of_mbz_zero {w : Word} (h : mbzField w = 0) : w.toNat = (opField w).toNat := by
  rw [word_eq_fields, h]; simp

end Sys2Proof
end

