-- ==== Sys2Proof/Laws/Fields.lean ====
section
/-! SUPPORT. The fields of SAMPLE after each field write, and the signed views of a byte. -/

namespace Sys2Proof.Machine

/-- Bit i of SAMPLE after a write of DX. -/
theorem getLsbD_setDx (w : Word) (b : Byte) (i : Nat) :
    (setDx w b).getLsbD i = if i < 8 then b.getLsbD i else w.getLsbD i := by
  simp only [setDx, BitVec.getLsbD_append, BitVec.getLsbD_extractLsb']
  split
  · rfl
  · rw [Nat.add_sub_cancel' (by omega)]
    by_cases h : i - 8 < 24
    · simp [h]
    · simp [h, BitVec.getLsbD_of_ge w i (by omega)]

/-- Bit i of SAMPLE after a write of DY. -/
theorem getLsbD_setDy (w : Word) (b : Byte) (i : Nat) :
    (setDy w b).getLsbD i = if 8 ≤ i ∧ i < 16 then b.getLsbD (i - 8) else w.getLsbD i := by
  simp only [setDy, BitVec.getLsbD_append, BitVec.getLsbD_extractLsb']
  by_cases h1 : i < 8
  · simp [h1, show ¬ 8 ≤ i by omega]
  · by_cases h2 : i - 8 < 8
    · simp [h1, h2, show 8 ≤ i ∧ i < 16 by omega]
    · simp only [h1, h2, if_false, show ¬ (8 ≤ i ∧ i < 16) by omega]
      rw [show 16 + (i - 8 - 8) = i by omega]
      by_cases h : i - 8 - 8 < 16
      · simp [h]
      · simp [h, BitVec.getLsbD_of_ge w i (by omega)]

/-- Bit i of SAMPLE after a write of BUTTONS. -/
theorem getLsbD_setButtons (w : Word) (b : BitVec 3) (i : Nat) :
    (setButtons w b).getLsbD i = if 16 ≤ i ∧ i < 19 then b.getLsbD (i - 16) else w.getLsbD i := by
  simp only [setButtons, BitVec.getLsbD_append, BitVec.getLsbD_extractLsb']
  by_cases h1 : i < 16
  · simp [h1, show ¬ 16 ≤ i by omega]
  · by_cases h2 : i - 16 < 3
    · simp [h1, h2, show 16 ≤ i ∧ i < 19 by omega]
    · simp only [h1, h2, if_false, show ¬ (16 ≤ i ∧ i < 19) by omega]
      rw [show 19 + (i - 16 - 3) = i by omega]
      by_cases h : i - 16 - 3 < 13
      · simp [h]
      · simp [h, BitVec.getLsbD_of_ge w i (by omega)]

/-- Bit i of SAMPLE after a write of VALID. -/
theorem getLsbD_setValid (w : Word) (v : Bool) (i : Nat) :
    (setValid w v).getLsbD i = if i = 24 then v else w.getLsbD i := by
  simp only [setValid, BitVec.getLsbD_append, BitVec.getLsbD_extractLsb', BitVec.getLsbD_ofBool]
  by_cases h1 : i < 24
  · simp [h1, show i ≠ 24 by omega]
  · by_cases h2 : i - 24 < 1
    · simp [show i = 24 by omega]
    · simp only [h1, h2, if_false, show ¬ i = 24 by omega]
      rw [show 25 + (i - 24 - 1) = i by omega]
      by_cases h : i - 24 - 1 < 7
      · simp [h]
      · simp [h, BitVec.getLsbD_of_ge w i (by omega)]

@[simp] theorem dx_setDx (w : Word) (b : Byte) : dx (setDx w b) = b := by
  ext i h; simp [dx, ← BitVec.getLsbD_eq_getElem, getLsbD_setDx, h]
@[simp] theorem dx_setDy (w : Word) (b : Byte) : dx (setDy w b) = dx w := by
  ext i h
  simp [dx, ← BitVec.getLsbD_eq_getElem, getLsbD_setDy, h, show ¬ (8 ≤ i ∧ i < 16) by omega]
@[simp] theorem dx_setButtons (w : Word) (b : BitVec 3) : dx (setButtons w b) = dx w := by
  ext i h
  simp [dx, ← BitVec.getLsbD_eq_getElem, getLsbD_setButtons, h, show ¬ (16 ≤ i ∧ i < 19) by omega]
@[simp] theorem dx_setValid (w : Word) (v : Bool) : dx (setValid w v) = dx w := by
  ext i h
  simp [dx, ← BitVec.getLsbD_eq_getElem, getLsbD_setValid, h, show ¬ i = 24 by omega]

@[simp] theorem dy_setDx (w : Word) (b : Byte) : dy (setDx w b) = dy w := by
  ext i h; simp [dy, ← BitVec.getLsbD_eq_getElem, getLsbD_setDx, h]
@[simp] theorem dy_setDy (w : Word) (b : Byte) : dy (setDy w b) = b := by
  ext i h
  simp [dy, ← BitVec.getLsbD_eq_getElem, getLsbD_setDy, h, show 8 + i < 16 by omega]
@[simp] theorem dy_setButtons (w : Word) (b : BitVec 3) : dy (setButtons w b) = dy w := by
  ext i h
  simp [dy, ← BitVec.getLsbD_eq_getElem, getLsbD_setButtons, h,
    show ¬ (16 ≤ 8 + i ∧ 8 + i < 19) by omega]
@[simp] theorem dy_setValid (w : Word) (v : Bool) : dy (setValid w v) = dy w := by
  ext i h
  simp [dy, ← BitVec.getLsbD_eq_getElem, getLsbD_setValid, h, show ¬ 8 + i = 24 by omega]

@[simp] theorem buttons_setDx (w : Word) (b : Byte) : buttons (setDx w b) = buttons w := by
  ext i h
  simp [buttons, ← BitVec.getLsbD_eq_getElem, getLsbD_setDx, h, show ¬ 16 + i < 8 by omega]
@[simp] theorem buttons_setDy (w : Word) (b : Byte) : buttons (setDy w b) = buttons w := by
  ext i h
  simp [buttons, ← BitVec.getLsbD_eq_getElem, getLsbD_setDy, h]
@[simp] theorem buttons_setButtons (w : Word) (b : BitVec 3) : buttons (setButtons w b) = b := by
  ext i h
  simp [buttons, ← BitVec.getLsbD_eq_getElem, getLsbD_setButtons, h, show 16 + i < 19 by omega]
@[simp] theorem buttons_setValid (w : Word) (v : Bool) : buttons (setValid w v) = buttons w := by
  ext i h
  simp [buttons, ← BitVec.getLsbD_eq_getElem, getLsbD_setValid, h, show ¬ 16 + i = 24 by omega]

@[simp] theorem valid_setDx (w : Word) (b : Byte) : valid (setDx w b) = valid w := by
  rw [valid, getLsbD_setDx, if_neg (by omega)]; rfl
@[simp] theorem valid_setDy (w : Word) (b : Byte) : valid (setDy w b) = valid w := by
  rw [valid, getLsbD_setDy, if_neg (by omega)]; rfl
@[simp] theorem valid_setButtons (w : Word) (b : BitVec 3) : valid (setButtons w b) = valid w := by
  rw [valid, getLsbD_setButtons, if_neg (by omega)]; rfl
@[simp] theorem valid_setValid (w : Word) (v : Bool) : valid (setValid w v) = v := by
  rw [valid, getLsbD_setValid, if_pos rfl]

/-- Writing a delta back leaves SAMPLE as it was. -/
@[simp] theorem setDx_dx (w : Word) : setDx w (dx w) = w := by
  apply BitVec.eq_of_getLsbD_eq
  intro i h
  rw [getLsbD_setDx]
  split <;> simp_all [dx]
@[simp] theorem setDy_dy (w : Word) : setDy w (dy w) = w := by
  apply BitVec.eq_of_getLsbD_eq
  intro i h
  rw [getLsbD_setDy]
  split
  · rename_i g
    simp [dy, show i - 8 < 8 by omega, Nat.add_sub_cancel' g.1]
  · rfl

/-- `s8` is the two's-complement value of the byte. -/
theorem s8_eq_toInt (b : Byte) : s8 b = b.toInt := by
  rw [s8, BitVec.toInt_eq_toNat_cond]
  split <;> split <;> first | rfl | omega

theorem s8_ge (b : Byte) : -128 ≤ s8 b := by
  rw [s8]; split <;> omega
theorem s8_le (b : Byte) : s8 b ≤ 127 := by
  have := b.isLt
  rw [s8]; split <;> omega

/-- A value that fits in a byte is read back as it was. -/
theorem s8_u8 {v : Int} (h1 : -128 ≤ v) (h2 : v ≤ 127) : s8 (u8 v) = v := by
  rw [s8_eq_toInt, u8, BitVec.toInt_ofInt, Int.bmod_def]
  split <;> omega

end Sys2Proof.Machine
end

