-- ==== Sys2Proof/Laws/State.lean ====
section
/-! SUPPORT. One small lemma per field for the updates of State: raising an error, writing a register, reset. -/

namespace Sys2Proof.Machine

@[simp] theorem raise_cfg (e : Error) (s : State) : (raise e s).cfg = s.cfg := rfl
@[simp] theorem raise_frameIn (e : Error) (s : State) : (raise e s).frameIn = s.frameIn := rfl
@[simp] theorem raise_now (e : Error) (s : State) : (raise e s).now = s.now := rfl
@[simp] theorem raise_sample (e : Error) (s : State) : (raise e s).sample = s.sample := rfl
@[simp] theorem raise_lastTime (e : Error) (s : State) : (raise e s).lastTime = s.lastTime := rfl
@[simp] theorem raise_stat (e : Error) (s : State) : (raise e s).stat = statRaise e s.stat := rfl
@[simp] theorem raise_inputs (e : Error) (s : State) : (raise e s).inputs = s.inputs := rfl
@[simp] theorem raise_responses (e : Error) (s : State) : (raise e s).responses = s.responses := rfl

/-- A register write changes its own register and no other. -/
@[simp] theorem writeReg_inputs (p : Params) (r : Reg) (v : Word) (s : State) :
    (writeReg p r v s).inputs = s.inputs := by cases r <;> rfl
@[simp] theorem writeReg_responses (p : Params) (r : Reg) (v : Word) (s : State) :
    (writeReg p r v s).responses = s.responses := by cases r <;> rfl
@[simp] theorem writeReg_lastTime (p : Params) (r : Reg) (v : Word) (s : State) :
    (writeReg p r v s).lastTime = s.lastTime := by cases r <;> rfl
theorem writeReg_cfg_of_ne (p : Params) {r : Reg} (v : Word) (s : State) (h : r ≠ .cfg) :
    (writeReg p r v s).cfg = s.cfg := by cases r <;> first | rfl | exact absurd rfl h
theorem writeReg_frameIn_of_ne (p : Params) {r : Reg} (v : Word) (s : State) (h : r ≠ .frameIn) :
    (writeReg p r v s).frameIn = s.frameIn := by cases r <;> first | rfl | exact absurd rfl h
theorem writeReg_now_of_ne (p : Params) {r : Reg} (v : Word) (s : State) (h : r ≠ .now) :
    (writeReg p r v s).now = s.now := by cases r <;> first | rfl | exact absurd rfl h
theorem writeReg_sample_of_ne (p : Params) {r : Reg} (v : Word) (s : State) (h : r ≠ .sample) :
    (writeReg p r v s).sample = s.sample := by cases r <;> first | rfl | exact absurd rfl h
theorem writeReg_stat_of_ne (p : Params) {r : Reg} (v : Word) (s : State) (h : r ≠ .stat) :
    (writeReg p r v s).stat = s.stat := by cases r <;> first | rfl | exact absurd rfl h

@[simp] theorem resetBlock_inputs (p : Params) (s : State) : (resetBlock p s).inputs = s.inputs := rfl
@[simp] theorem resetBlock_responses (p : Params) (s : State) :
    (resetBlock p s).responses = s.responses := rfl
@[simp] theorem resetBlock_cfg (p : Params) (s : State) : (resetBlock p s).cfg = 0 := rfl
@[simp] theorem resetBlock_frameIn (p : Params) (s : State) : (resetBlock p s).frameIn = 0 := rfl
@[simp] theorem resetBlock_now (p : Params) (s : State) : (resetBlock p s).now = 0 := rfl
@[simp] theorem resetBlock_sample (p : Params) (s : State) : (resetBlock p s).sample = 0 := rfl
@[simp] theorem resetBlock_lastTime (p : Params) (s : State) :
    (resetBlock p s).lastTime = p.lastTimeReset &&& tsMask p := rfl
@[simp] theorem resetBlock_stat (p : Params) (s : State) : (resetBlock p s).stat = 0 := rfl

/-- The mask of PDAS v1's 32-bit time registers has every bit. -/
@[simp] theorem tsMask_pdasV1 : tsMask pdasV1 = BitVec.allOnes 32 := by decide

end Sys2Proof.Machine
end

