-- ==== Sys2Proof/Laws/Ops.lean ====
section
/-! SUPPORT. What each shared operation does, once: the register map, error entry, narrowing, one axis
evaluation. -/

namespace Sys2Proof.Machine

/-- What PDAS v1 is built from (00 R7, 41 R86). -/
theorem buildV1_params : buildV1.params = pdasV1 := rfl
theorem buildV1_curve : buildV1.curve = exactCurve 8 := rfl
@[simp] theorem exactBuild_params (p : Params) : (exactBuild p).params = p := rfl
@[simp] theorem exactBuild_curve (p : Params) : (exactBuild p).curve = exactCurve p.factorFrac := rfl

/-- The register map is its own inverse on the seven registers. -/
@[simp] theorem regAt_regOffset (r : Reg) : regAt (regOffset r) = some r := by cases r <;> rfl

/-- An offset holds a register exactly when it is that register's. -/
theorem regAt_eq_some {off : Offset} {r : Reg} : regAt off = some r ↔ off = regOffset r := by
  constructor
  · revert off r; decide
  · rintro rfl; simp

/-- Raising an error sets its bit and leaves every other bit (60 R118). -/
theorem statHas_statRaise (e f : Error) (w : Word) :
    statHas f (statRaise e w) = (statHas f w || decide (e = f)) := by
  cases e <;> cases f <;> simp [statHas, statRaise, errorBit]

/-- A write to STAT clears the bits written 1 (20 R47). -/
theorem statHas_statClear (e : Error) (v w : Word) :
    statHas e (statClear v w) = (statHas e w && !statHas e v) := by
  cases e <;> simp [statHas, statClear, errorBit, statMask]

/-- A value in range is kept and raises nothing. -/
theorem narrow_of_fits (m : OvfMode) {r : Int} (h1 : -128 ≤ r) (h2 : r ≤ 127) :
    narrow m r = (u8 r, false) := by
  unfold narrow; rw [if_pos ⟨h1, h2⟩]

/-- A value above the range. -/
theorem narrow_sat_of_gt {r : Int} (h : 127 < r) : narrow .sat r = (u8 127, true) := by
  unfold narrow; rw [if_neg (by omega)]; simp [show 0 < r by omega]

/-- A value below the range. -/
theorem narrow_sat_of_lt {r : Int} (h : r < -128) : narrow .sat r = (u8 (-128), true) := by
  unfold narrow; rw [if_neg (by omega)]; simp [show ¬ 0 < r by omega]

/-- One axis evaluation touches LAST_TIME and STAT only (41 R80). -/
theorem shapeAxis_state (b : Build) (d8 : Byte) (s : State) :
    (shapeAxis b d8 s).2 = { s with
      lastTime := s.now
      stat := if (shapeValue b s.cfg (elapsedTime b.params s.now s.lastTime) d8).2 then
        statRaise .sat s.stat else s.stat } := by
  simp only [shapeAxis]
  split <;> rfl

/-- A disabled shaper returns the delta and raises nothing (41 R83). -/
theorem shapeValue_disabled (b : Build) {cfg : Word} (n : Nat) (d8 : Byte) (h : accelEn cfg = false) :
    shapeValue b cfg n d8 = (d8, false) := by
  rw [shapeValue, if_pos h]


end Sys2Proof.Machine
end

