-- ==== Sys2Proof/Laws/Bus.lean ====
section
/-! SUPPORT. What a command, a transaction and a step can do, said once. -/

namespace Sys2Proof.Machine

/-- Every command of PDAS v1 goes on, to the state `commandOf` gives for the v1 build. -/
theorem exec_eq_commandOf (i : Instr) (s : State) : exec i s = .next (commandOf buildV1 i s) := by
  cases i <;> rfl

/-- No command touches the boundary's record. -/
@[simp] theorem commandOf_inputs (b : Build) (i : Instr) (s : State) :
    (commandOf b i s).inputs = s.inputs := by
  cases i <;> simp only [commandOf, nopState, decodeState, shapeXState, shapeYState, shapeXYState] <;>
    try split
  all_goals simp [shapeDx, shapeDy, shapeAxis_state]

@[simp] theorem commandOf_responses (b : Build) (i : Instr) (s : State) :
    (commandOf b i s).responses = s.responses := by
  cases i <;> simp only [commandOf, nopState, decodeState, shapeXState, shapeYState, shapeXYState] <;>
    try split
  all_goals simp [shapeDx, shapeDy, shapeAxis_state]

theorem step_of_nil {s : State} (h : s.inputs = []) : step s = .next s := by
  rw [step, stepVia, h]
theorem step_of_bus {s : State} {a : Access} {rest : List Input} (h : s.inputs = .bus a :: rest) :
    step s = transact pdasV1 exec a { s with inputs := rest } := by
  rw [step, stepVia, h]
theorem step_of_reset {s : State} {rest : List Input} (h : s.inputs = .reset :: rest) :
    step s = .next (resetBlock pdasV1 { s with inputs := rest }) := by
  rw [step, stepVia, h]
theorem step_of_foreign {s : State} {a : Access} {rest : List Input} (h : s.inputs = .foreign a :: rest) :
    step s = .fault .secondMaster := by
  rw [step, stepVia, h]

/-- An access of a size other than 4 selects no register (20 R41); one of size 4 selects what is mapped. -/
theorem selected_eq_some {off : Offset} {size : Size} {r : Reg} :
    selected off size = some r ↔ size = .four ∧ off = regOffset r := by
  cases size <;> simp [selected, regAt_eq_some]

/-- The word a write puts in CMD, by what it selects. -/
theorem writeCmd_command (run : Runner) {v : Word} {i : Instr} (s : State) (h : decode v = .command i) :
    writeCmd run v s = run i s := by
  rw [writeCmd, h]
theorem writeCmd_illegal (run : Runner) {v : Word} {w : Illegal} (s : State) (h : decode v = .illegal w) :
    writeCmd run v s = .next (illegalCommand s) := by
  rw [writeCmd, h]

/-- A write by the register it selects. -/
theorem busWrite_none (p : Params) (run : Runner) {off : Offset} {size : Size} (v : Word) (s : State)
    (h : selected off size = none) : busWrite p run off size v s = .next (raise .busErr s) := by
  rw [busWrite, h]
theorem busWrite_cmd (p : Params) (run : Runner) {off : Offset} {size : Size} (v : Word) (s : State)
    (h : selected off size = some .cmd) : busWrite p run off size v s = writeCmd run v s := by
  rw [busWrite, h]
theorem busWrite_reg (p : Params) (run : Runner) {off : Offset} {size : Size} {r : Reg} (v : Word)
    (s : State) (h : selected off size = some r) (hr : r ≠ .cmd) :
    busWrite p run off size v s = .next (writeReg p r v s) := by
  rw [busWrite, h]; cases r <;> first | rfl | exact absurd rfl hr

/-- A read by the register it selects. -/
theorem busRead_none (p : Params) {off : Offset} {size : Size} (s : State)
    (h : selected off size = none) :
    busRead p off size s = { raise .busErr s with responses := s.responses ++ [0] } := by
  rw [busRead, h]
theorem busRead_reg (p : Params) {off : Offset} {size : Size} {r : Reg} (s : State)
    (h : selected off size = some r) :
    busRead p off size s = { s with responses := s.responses ++ [readReg p r s] } := by
  rw [busRead, h]

/-- A 4-byte write at offset 0x0C reaches CMD. -/
theorem step_of_cmdWrite {s : State} {v : Word} {rest : List Input}
    (h : s.inputs = .bus (.write 0x0C .four v) :: rest) :
    step s = writeCmd exec v { s with inputs := rest } := by
  rw [step_of_bus h, transact]
  exact busWrite_cmd _ _ _ _ (selected_eq_some.mpr ⟨rfl, rfl⟩)

/-- EVERYTHING A STEP CAN DO when it goes on: wait; take a reset; refuse a write or a read as a bus error;
write a register; refuse an illegal command word; run a command; read a register. -/
theorem step_cases {s t : State} (h : step s = .next t) :
    (s.inputs = [] ∧ t = s) ∨
    (∃ rest, s.inputs = .reset :: rest ∧ t = resetBlock pdasV1 { s with inputs := rest }) ∨
    (∃ off size v rest, s.inputs = .bus (.write off size v) :: rest ∧ selected off size = none ∧
      t = raise .busErr { s with inputs := rest }) ∨
    (∃ off size rest, s.inputs = .bus (.read off size) :: rest ∧ selected off size = none ∧
      t = { raise .busErr { s with inputs := rest } with responses := s.responses ++ [0] }) ∨
    (∃ off size r v rest, s.inputs = .bus (.write off size v) :: rest ∧ selected off size = some r ∧
      r ≠ .cmd ∧ t = writeReg pdasV1 r v { s with inputs := rest }) ∨
    (∃ off size v w rest, s.inputs = .bus (.write off size v) :: rest ∧ selected off size = some .cmd ∧
      decode v = .illegal w ∧ t = illegalCommand { s with inputs := rest }) ∨
    (∃ off size v i rest, s.inputs = .bus (.write off size v) :: rest ∧ selected off size = some .cmd ∧
      decode v = .command i ∧ t = commandOf buildV1 i { s with inputs := rest }) ∨
    (∃ off size r rest, s.inputs = .bus (.read off size) :: rest ∧ selected off size = some r ∧
      t = { s with inputs := rest, responses := s.responses ++ [readReg pdasV1 r { s with inputs := rest }] }) := by
  match hi : s.inputs with
  | [] =>
    rw [step_of_nil hi] at h
    exact .inl ⟨rfl, by simpa using h.symm⟩
  | .reset :: rest =>
    rw [step_of_reset hi] at h
    exact .inr (.inl ⟨rest, rfl, by simpa using h.symm⟩)
  | .foreign a :: rest => rw [step_of_foreign hi] at h; cases h
  | .bus (.read off size) :: rest =>
    rw [step_of_bus hi, transact] at h
    cases hs : selected off size with
    | none =>
      rw [busRead_none _ _ hs] at h
      exact .inr (.inr (.inr (.inl ⟨off, size, rest, rfl, hs, by simpa using h.symm⟩)))
    | some r =>
      rw [busRead_reg _ _ hs] at h
      exact .inr (.inr (.inr (.inr (.inr (.inr (.inr ⟨off, size, r, rest, rfl, hs, by simpa using h.symm⟩))))))
  | .bus (.write off size v) :: rest =>
    rw [step_of_bus hi, transact] at h
    cases hs : selected off size with
    | none =>
      rw [busWrite_none _ _ _ _ hs] at h
      exact .inr (.inr (.inl ⟨off, size, v, rest, rfl, hs, by simpa using h.symm⟩))
    | some r =>
      by_cases hr : r = .cmd
      · subst hr
        rw [busWrite_cmd _ _ _ _ hs] at h
        cases hd : decode v with
        | illegal w =>
          rw [writeCmd_illegal _ _ hd] at h
          exact .inr (.inr (.inr (.inr (.inr (.inl
            ⟨off, size, v, w, rest, rfl, hs, hd, by simpa using h.symm⟩)))))
        | command i =>
          rw [writeCmd_command _ _ hd, exec_eq_commandOf] at h
          exact .inr (.inr (.inr (.inr (.inr (.inr (.inl
            ⟨off, size, v, i, rest, rfl, hs, hd, by simpa using h.symm⟩))))))
      · rw [busWrite_reg _ _ _ _ hs hr] at h
        exact .inr (.inr (.inr (.inr (.inl ⟨off, size, r, v, rest, rfl, hs, hr, by simpa using h.symm⟩))))

end Sys2Proof.Machine
end

