-- ==== Sys2Proof/Laws/Core.lean ====
section
/-! SUPPORT. A run of the core, one step at a time. -/

namespace Sys2Proof.Machine

/-- A run whose first step goes on is the rest of the run from there. -/
theorem run_succ_of_next {s t : State} (n : Nat) (h : step s = .next t) :
    core.run (n + 1) s = core.run n t := by
  have h' : core.step s = .next t := h
  simp only [Host.Core.run, h']

/-- A run of one step more is a step from where the run stands. -/
theorem run_succ_eq_step {s t : State} (n : Nat) (h : core.run n s = .next t) :
    core.run (n + 1) s = step t := by
  induction n generalizing s with
  | zero =>
    obtain rfl : s = t := Host.Outcome.next.inj h
    have h1 : core.step s = step s := rfl
    simp only [Host.Core.run, h1]
    cases step s <;> rfl
  | succ n ih =>
    cases hs : step s with
    | next u => rw [run_succ_of_next _ hs] at h ⊢; exact ih h
    | fault f =>
      have h1 : core.step s = .fault f := hs
      simp [Host.Core.run, h1] at h
    | refused r =>
      have h1 : core.step s = .refused r := hs
      simp [Host.Core.run, h1] at h

end Sys2Proof.Machine
end

