-- ==== Sys2Proof/Laws/PerInstr.lean ====
section
/-! SUPPORT. The family RoundTrip of LAWS.json: one lemma per command. -/

namespace Sys2Proof.Laws.RoundTrip

/-- The command is well formed, its word has MBZ zero, and its word decodes to it (30 R56, R57). -/
def Statement (i : Instr) : Prop :=
  i.wf = true ∧ mbzField (encode i) = 0 ∧ decode (encode i) = .command i

theorem nop : Statement .nop := by unfold Statement; decide
theorem decode : Statement .decode := by unfold Statement; decide
theorem shapeX : Statement .shapeX := by unfold Statement; decide
theorem shapeY : Statement .shapeY := by unfold Statement; decide
theorem shapeXY : Statement .shapeXY := by unfold Statement; decide

end Sys2Proof.Laws.RoundTrip
end

