-- ==== Sys2Proof/Tests/Slice0.lean ====
section
/-! SUPPORT. Small tests. Expected results come from spec/95_test_vectors.md (the vector's id stands in the
test's comment) and the examples of the rules; each witness_ theorem meets all hypotheses of the obligation it
is named after. -/

namespace Sys2Proof.Tests

open Sys2Proof Sys2Proof.Machine

/-- A state from its registers, with nothing at the boundary. -/
def st (cfg frame now sample last stat : Word) : State :=
  { cfg := cfg, frameIn := frame, now := now, sample := sample, lastTime := last, stat := stat,
    inputs := [], responses := [] }

/-- The reset state with inputs pending. -/
def pend (xs : List Input) : State := { State.reset with inputs := xs }

/-- The host's 4-byte write and read. -/
def wr (off : Offset) (v : Word) : Input := .bus (.write off .four v)
def rd (off : Offset) : Input := .bus (.read off .four)

/-! ### Decoding: words written out from the opcode table -/

theorem test_decode_nop : decode 0b00000000000000000000000000000000#32 = .command .nop := by decide
theorem test_decode_decode : decode 0b00000000000000000000000000000001#32 = .command .decode := by decide
theorem test_decode_shapeX : decode 0b00000000000000000000000000000010#32 = .command .shapeX := by decide
theorem test_decode_shapeY : decode 0b00000000000000000000000000000011#32 = .command .shapeY := by decide
theorem test_decode_shapeXY : decode 0b00000000000000000000000000000100#32 = .command .shapeXY := by decide
/-- V-C2, V-C3: the ends of the reserved OP values. -/
theorem test_decode_reserved :
    decode 0x00000005 = .illegal .reservedOp ∧ decode 0x0000000F = .illegal .reservedOp := by decide
/-- V-C4 to V-C7: a nonzero MBZ field hides any OP. -/
theorem test_decode_mbz : decode 0x00000010 = .illegal .mustBeZero ∧
    decode 0x00000012 = .illegal .mustBeZero ∧ decode 0xFFFFFFFF = .illegal .mustBeZero ∧
    decode 0x80000001 = .illegal .mustBeZero := by decide
theorem test_decode_table_word : decodeTableWord 32 2 = some .shapeX ∧ decodeTableWord 32 5 = none := by
  decide
theorem test_fetch_word : (State.reset.withFetchWord 32 3).inputs = [wr 0x0C 3] := by decide

/-! ### WellFormed: one ill-formed term for each check -/

theorem test_wf_instr : ([.nop, .decode, .shapeX, .shapeY, .shapeXY] : List Instr).all Instr.wf := by decide
theorem test_legal_v1 : pdasV1.legal = true := by decide
theorem test_illegal_drBit : { pdasV1 with drBit := 8 }.legal = false := by decide
theorem test_illegal_xSign : { pdasV1 with xSignBit := 8 }.legal = false := by decide
theorem test_illegal_ySign : { pdasV1 with ySignBit := 8 }.legal = false := by decide
theorem test_illegal_same_sign : { pdasV1 with ySignBit := 4 }.legal = false := by decide
theorem test_illegal_btnLo : { pdasV1 with btnLo := 6 }.legal = false := by decide
theorem test_illegal_tsW : { pdasV1 with tsW := 7 }.legal = false ∧ { pdasV1 with tsW := 33 }.legal = false := by
  decide
theorem test_illegal_factorFrac : { pdasV1 with factorFrac := 17 }.legal = false := by decide
theorem test_script_label_twice : scriptWf [.label "a", .label "a"] = false := by decide
theorem test_script_no_target : scriptWf [.rd (.reg .stat) "x", .ifGoto (skipped "x") "a"] = false := by decide
theorem test_script_name_unread : scriptWf [.ifGoto (skipped "x") "a", .label "a"] = false := by decide
/-- 95 P1 line 2: the FRAME_IN word of a failed read. -/
theorem test_failed_reading : (Reading.failed 0x11 0xFF 0x05).line = .wr (.reg .frameIn) 0x05FF11FF := by decide
/-- 70 R134: step 3 is optional. -/
theorem test_boot : bootScript 1 10 0x0100 false = [.wr (.reg .cfg) 0x01000A01] ∧
    bootScript 1 10 0x0100 true = [.wr (.reg .cfg) 0x01000A01, .wr (.reg .stat) 0xF] := by decide
theorem test_script_sample_wf : scriptWf (sampleScript (.failed 0x11 0xFF 0x05) false 0) = true := by decide

/-! ### Commands -/

/-- V-C1. -/
theorem test_nop : exec .nop (st 0x02000A01 0x05FF1104 50 0x14 0 0) =
    .next (st 0x02000A01 0x05FF1104 50 0x14 0 0) := rfl
/-- V-D12: S = 0xFE is decoded; buttons 7, both sign bits force bit 7. -/
theorem test_decode_produces : exec .decode (st 0 0x7F7F37FE 0 0x0103AABB 0 0) =
    .next (st 0 0x7F7F37FE 0 0x0107FFFF 0 0) := rfl
/-- V-D9: the sentinel clears only VALID. -/
theorem test_decode_skips : exec .decode (st 0 0x05FF11FF 0 0x0103AABB 0 0) =
    .next (st 0 0x05FF11FF 0 0x0003AABB 0 0) := rfl
/-- V-S13: an exact half, negative, goes away from zero. -/
theorem test_shapeX_half : exec .shapeX (st 0x01000A01 0 10 0xE2 0 0) =
    .next (st 0x01000A01 0 10 0xF8 10 0) := rfl
/-- V-S24: a result below -128 clamps and raises SAT. -/
theorem test_shapeX_sat : exec .shapeX (st 0x08003201 0 10 0x9C 0 0) =
    .next (st 0x08003201 0 10 0x80 10 8) := rfl
/-- V-S34. -/
theorem test_shapeY : exec .shapeY (st 0x01000501 0 200 0xF600 0x96 0) =
    .next (st 0x01000501 0 200 0xFD00 0xC8 0) := rfl
/-- V-S31 on Y: time going backwards by 1 is stale. -/
theorem test_shapeY_backwards : exec .shapeY (st 0x02000A01 0 999 0x3200 1000 0) =
    .next (st 0x02000A01 0 999 0x3200 999 0) := rfl
/-- V-S35: X is stale, Y sees elapsed 0. -/
theorem test_shapeXY_shared : exec .shapeXY (st 0x01000501 0 1000 0x0A0A 0 0) =
    .next (st 0x01000501 0 1000 0x030A 1000 0) := rfl
/-- V-S38: refused, neither axis runs. -/
theorem test_shapeXY_refused : exec .shapeXY (st 0x01000001 0 10 0x3C64 3 0) =
    .next (st 0x01000001 0 10 0x3C64 3 2) := rfl
/-- V-S26: under WRAP -267 gives 0xF5, and SAT all the same. -/
theorem test_wrap : commandOf ⟨{ pdasV1 with ovfMode := .wrap }, exactCurve 8⟩ .shapeX
    (st 0x08003201 0 10 0x9C 0 0) = st 0x08003201 0 10 0xF5 10 8 := by decide
/-- 95 section 4, first row: q = 16.5 gives 17. -/
theorem test_curve_half : exactCurve 8 77 21 0x0100 = 17 := by decide

/-! ### The bus -/

/-- V-B1, V-B2: reserved bits are ignored on a write. -/
theorem test_write_cfg : step (pend [wr 0x00 0xFFFFFFFF]) = .next { State.reset with cfg := 0xFFFFFF01 } := rfl
theorem test_write_sample : step (pend [wr 0x10 0xFFFFFFFF]) =
    .next { State.reset with sample := 0x0107FFFF } := rfl
/-- V-B3, V-B4, V-B5. -/
theorem test_write_last_time : step (pend [wr 0x14 0x12345678]) = .next State.reset := rfl
theorem test_read_cmd : step (pend [rd 0x0C]) = .next { State.reset with responses := [0] } := rfl
theorem test_read_reserved : step (pend [rd 0x1C]) =
    .next { State.reset with responses := [0], stat := 4 } := rfl
/-- V-B8: a 1-byte write to CMD runs nothing. -/
theorem test_byte_write_cmd : step (pend [.bus (.write 0x0C .one 1)]) =
    .next { State.reset with stat := 4 } := rfl
/-- V-B10. -/
theorem test_clear_stat : step { pend [wr 0x18 5] with stat := 0xF } = .next { State.reset with stat := 0xA } :=
  rfl
/-- 42 R101's example, V-C5's word. -/
theorem test_illegal_cmd : step (pend [wr 0x0C 7]) = .next { State.reset with stat := 1 } ∧
    step (pend [wr 0x0C 0x12]) = .next { State.reset with stat := 1 } := ⟨rfl, rfl⟩
/-- 20 R48: lane 0 of FRAME_IN is S (V-B11). -/
theorem test_lane : lane 0x05FF1104 0 = 0x04 := by decide
/-- 30 R67 by 95 P1 line 6. -/
theorem test_frame_word : frameWord 0x04 0x30 0x14 0xF6 = 0xF6143004 := by decide

/-! ### Witnesses -/

theorem witness_EncodeThenDecodeGivesCommand : Instr.shapeXY.wf = true := by decide
/-- Every clause at its boundary: MBZ 1 and all ones; OP 0 to 4; OP 5 and 15. -/
theorem witness_CmdWriteDispatchesOnMbzThenOp :
    (∀ v : Word, (pend [wr 0x0C v]).inputs = [.bus (.write 0x0C .four v)]) ∧
    (0x10#32).extractLsb' 4 28 ≠ 0 ∧ (0xFFFFFFFF#32).extractLsb' 4 28 ≠ 0 ∧
    (∀ n : Fin 16, (BitVec.ofNat 32 n).extractLsb' 4 28 = 0) ∧
    (∀ n : Fin 5, (BitVec.ofNat 32 n).extractLsb' 0 4 = BitVec.ofNat 4 n) ∧
    5 ≤ ((5#32).extractLsb' 0 4).toNat ∧ 5 ≤ ((15#32).extractLsb' 0 4).toNat := by
  exact ⟨fun _ => rfl, by decide, by decide, by decide, by decide, by decide, by decide⟩
theorem witness_StepRunsTheDecodedCommand : Instr.decode.wf = true ∧ decode 1 = .command .decode ∧
    (pend [wr 0x0C 1]).inputs = [.bus (.write 0x0C .four 1)] := by decide
theorem witness_IllegalCommandWordOnlyRaisesIllegalCmd :
    (pend [wr 0x0C 5]).inputs = [.bus (.write 0x0C .four 5)] ∧ ∀ i : Instr, (5 : Word) ≠ encode i :=
  ⟨rfl, by intro i; cases i <;> decide⟩
theorem witness_NopHasNoEffect : (pend [wr 0x0C 0]).inputs = [.bus (.write 0x0C .four 0)] := rfl
/-- Both causes: the sentinel (data-ready set), and data-ready clear with every other bit set. -/
theorem witness_DecodeSkipOnlyClearsValid :
    ((0x05FF11FF : Word).extractLsb' 0 8 = 0xFF#8 ∧ (0x05FF11FF : Word).getLsbD 2 = true) ∧
    ((0x05FF11FB : Word).extractLsb' 0 8 ≠ 0xFF#8 ∧ (0x05FF11FB : Word).getLsbD 2 = false) := by decide
theorem witness_DecodeProducesTheSample : (st 0 0x7F7F37FE 0 0 0 0).frameIn.extractLsb' 0 8 ≠ 0xFF#8 ∧
    (st 0 0x7F7F37FE 0 0 0 0).frameIn.getLsbD 2 = true := by decide
theorem witness_DecodeForcesTheSignBitForEveryBuild :
    ((0x7F7F37FE : Word).extractLsb' 0 8 : Byte) ≠ buildV1.params.sentinel ∧
    ((0x7F7F37FE : Word).extractLsb' 0 8 : Byte).getLsbD buildV1.params.drBit = true ∧ 6 < 7 ∧ 2 < 3 ∧
    buildV1.params = pdasV1 := by decide
/-- Magnitudes 0x7F and 0x80, and 9-bit deltas at the ends of the three ranges. -/
theorem witness_ReconstructedDeltaValue : (0x7F : Byte).toNat < 0x80 ∧ 0x80 ≤ (0x80 : Byte).toNat ∧
    ((-256 : Int) ≤ -256 ∧ (-256 : Int) ≤ -129) ∧ ((-128 : Int) ≤ -128 ∧ (-128 : Int) ≤ 127) ∧
    ((128 : Int) ≤ 255 ∧ (255 : Int) ≤ 255) := by decide
theorem witness_SentinelHasDataReadySetAndSkips : pdasV1.legal = true ∧ pdasV1.sentinel = 0xFF ∧
    (0x000000FF : Word).extractLsb' 0 8 = 0xFF#8 := by decide
/-- Two produced frames that differ in S and in P0 bits 3, 6, 7; two skips with different frames. -/
theorem witness_DecodeIgnoresTheOtherFrameBits :
    ((0x0505C804 : Word).extractLsb' 0 8 ≠ 0xFF#8 ∧ (0x0505C804 : Word).getLsbD 2 = true ∧
      (0x050500FE : Word).extractLsb' 0 8 ≠ 0xFF#8 ∧ (0x050500FE : Word).getLsbD 2 = true ∧
      (0x0505C804 : Word) &&& 0xFFFF3700#32 = 0x050500FE &&& 0xFFFF3700#32) ∧
    ((0x05FF11FF : Word).extractLsb' 0 8 = 0xFF#8 ∧ (0x00000000 : Word).getLsbD 2 = false) := by decide
theorem witness_DecodeIsIdempotentAndReadsOnlyTheFrame :
    (st 1 0x05FF1104 2 3 4 5).frameIn = (st 0 0x05FF1104 0 3 0 0).frameIn ∧
    (st 1 0x05FF1104 2 3 4 5).sample = (st 0 0x05FF1104 0 3 0 0).sample := by decide
theorem witness_RefusedShapeOnlyRaisesCfgErr : Instr.shapeXY.isShape = true ∧
    (st 0x02000001 0 0 0 0 0).cfg.getLsbD 0 = true ∧ (st 0x02000001 0 0 0 0 0).cfg.extractLsb' 8 8 = 0#8 := by
  decide
theorem witness_DisabledShapePassesThrough : Instr.shapeX.isShape = true ∧
    (st 0x02000A00 0 0 0 0 0).cfg.getLsbD 0 = false := by decide
/-- Every branch: disabled; one below the threshold; elapsed 101; elapsed 100 in range; above and below the
range (V-S23, V-S24), for both modes. -/
theorem witness_ShapeAxisFollowsItsBranches :
    accelEn 0x02000A00 = false ∧ |s8 9| < threshold 0x02000A01 ∧
    ((buildV1.params.staleLimit : Int) < ((101 : Int) - 0) % 2 ^ buildV1.params.tsW) ∧
    (accelEn 0x02000A01 = true ∧ (threshold 0x02000A01 : Int) ≤ |s8 10| ∧
      ((100 : Int) - 0) % 2 ^ buildV1.params.tsW ≤ buildV1.params.staleLimit ∧
      -128 ≤ buildV1.curve 10 10 0x0200 ∧ buildV1.curve 10 10 0x0200 ≤ 127) ∧
    (accelEn 0x08003201 = true ∧ (threshold 0x08003201 : Int) ≤ |s8 0x64| ∧
      127 < buildV1.curve (s8 0x64) (threshold 0x08003201) (factor 0x08003201) ∧
      buildV1.params.ovfMode = .sat) ∧
    ((threshold 0x08003201 : Int) ≤ |s8 0x9C| ∧
      buildV1.curve (s8 0x9C) (threshold 0x08003201) (factor 0x08003201) < -128) ∧
    { pdasV1 with ovfMode := .wrap }.ovfMode = .wrap := by decide
/-- One state for the statements about an executed SHAPE. -/
theorem witness_ShapeXShapesOnlyDx : ¬ ((st 0x02000A01 0 50 0x14 0 0).cfg.getLsbD 0 = true ∧
    (st 0x02000A01 0 50 0x14 0 0).cfg.extractLsb' 8 8 = 0#8) := by decide
theorem witness_ShapeYShapesOnlyDy : ¬ ((st 0x01000501 0 200 0xF600 150 0).cfg.getLsbD 0 = true ∧
    (st 0x01000501 0 200 0xF600 150 0).cfg.extractLsb' 8 8 = 0#8) := by decide
theorem witness_ShapeXYShapesYAtElapsedZero : ¬ ((st 0x01000501 0 1000 0x0A0A 0 0).cfg.getLsbD 0 = true ∧
    (st 0x01000501 0 1000 0x0A0A 0 0).cfg.extractLsb' 8 8 = 0#8) := by decide
theorem witness_AxesShareTheTimestamp : ¬ ((st 0x01000500 0 500 0x0A0A 0 0).cfg.getLsbD 0 = true ∧
    (st 0x01000500 0 500 0x0A0A 0 0).cfg.extractLsb' 8 8 = 0#8) := by decide
/-- The axis specification at its boundaries: |d| = T and elapsed = 100 take the curve; one less, one more
do not. -/
theorem witness_axisSpec_branches : (accelEn 0x02000A01 = true ∧ (threshold 0x02000A01 : Int) ≤ |s8 0xF6| ∧
    (100 : Int) ≤ 100) ∧ |s8 0xF7| < threshold 0x02000A01 ∧ (100 : Int) < 101 := by decide
theorem witness_ShapeNeitherReadsNorWritesValidAndButtons : Instr.shapeY.isShape = true := by decide
theorem witness_CurveIsTheRoundedRational : 1 ≤ 1 ∧ ((1 : Nat) : Int) ≤ |(-1 : Int)| ∧ 0 < 1 := by decide
theorem witness_CurveKeepsTheSignAndIsOdd : 1 ≤ 128 := by decide
theorem witness_CurveIsMonotoneBelowItsAsymptote : 1 ≤ 1 ∧ 0 < 1 ∧ |(-127 : Int)| ≤ |(-128 : Int)| := by decide
/-- At the threshold and above it. -/
theorem witness_CurveGainIsAtMostHalfTheFactor :
    (1 ≤ 128 ∧ ((128 : Nat) : Int) ≤ |(-128 : Int)| ∧ 0 < 1 ∧ |(-128 : Int)| = ((128 : Nat) : Int)) ∧
    (1 ≤ 1 ∧ ((1 : Nat) : Int) ≤ |(2 : Int)| ∧ |(2 : Int)| ≠ ((1 : Nat) : Int)) := by decide
theorem witness_FactorUpToTwoNeverOverflows :
    ((st 0x02000A01 0 50 0x14 0 0).cfg.extractLsb' 16 16).toNat ≤ 0x0200 ∧ Instr.shapeX.isShape = true := by
  decide
/-- A wrapped clock (V-S29), the largest gap, and a clock gone backwards by 1. -/
theorem witness_ElapsedIsTheGapModuloTheTimeWidth : pdasV1.legal = true ∧
    (96 < 2 ^ pdasV1.tsW ∧ (80 : Word).toNat = ((0xFFFFFFF0 : Word).toNat + 96) % 2 ^ pdasV1.tsW) ∧
    (0xFFFFFFFF < 2 ^ pdasV1.tsW ∧ (999 : Word).toNat = ((1000 : Word).toNat + 0xFFFFFFFF) % 2 ^ pdasV1.tsW) ∧
    ((999 : Word).toNat < (1000 : Word).toNat ∧ (1000 : Word).toNat < 2 ^ pdasV1.tsW) := by decide
/-- V-S32 and V-S33: NOW = 100 and NOW = 101; DX and DY both reach the staleness test. -/
theorem witness_FirstShapeIsStaleWhenNowExceedsHundred :
    ((st 0x01000501 0 100 0x1414 0 0).lastTime = 0 ∧ accelEn 0x01000501 = true ∧ 1 ≤ threshold 0x01000501 ∧
      (threshold 0x01000501 : Int) ≤ |s8 (dx 0x1414)| ∧ (threshold 0x01000501 : Int) ≤ |s8 (dy 0x1414)| ∧
      (100 : Word).toNat ≤ 100) ∧
    ((st 0x01000501 0 101 0x1414 0 0).lastTime = 0 ∧ 100 < (101 : Word).toNat) := by decide
theorem witness_ThresholdAndFactorCorners : Instr.shapeX.isShape = true ∧
    129 ≤ ((st 0x01008101 0 10 0x80 0 0).cfg.extractLsb' 8 8).toNat ∧ 1 ≤ 1 := by decide
/-- Each cause alone, for a read and a write. -/
theorem witness_BusErrorRaisesBusErrAndDoesNothingElse :
    (Size.two ≠ .four ∧ (0x0C : Offset).toNat % 4 = 0) ∧ (0x02 : Offset).toNat % 4 ≠ 0 ∧
    ((0x1C : Offset) = 0x1C ∧ (0x1C : Offset).toNat % 4 = 0) ∧
    (pend [rd 0x1C]).inputs = [.bus (.read 0x1C .four)] ∧
    (pend [wr 0x02 1]).inputs = [.bus (.write 0x02 .four 1)] := by decide
theorem witness_ReadWriteRegistersKeepTheirDefinedBits :
    (∀ off : Offset, (pend [rd off]).inputs = [.bus (.read off .four)]) ∧
    ∀ (off : Offset) (v : Word), (pend [wr off v]).inputs = [.bus (.write off .four v)] :=
  ⟨fun _ => rfl, fun _ _ => rfl⟩
theorem witness_LastTimeIsReadOnly : (pend [rd 0x14]).inputs = [.bus (.read 0x14 .four)] ∧
    (pend [wr 0x14 7]).inputs = [.bus (.write 0x14 .four 7)] := by decide
theorem witness_CmdReadsZeroAndWritesExecute : (pend [rd 0x0C]).inputs = [.bus (.read 0x0C .four)] ∧
    (pend [wr 0x0C 4]).inputs = [.bus (.write 0x0C .four (encode .shapeXY))] ∧
    (pend [wr 0x0C 5]).inputs = [.bus (.write 0x0C .four 5)] ∧ (∀ i : Instr, (5 : Word) ≠ encode i) :=
  ⟨rfl, rfl, rfl, by intro i; cases i <;> decide⟩
theorem witness_StatIsWriteOneToClear : (pend [rd 0x18]).inputs = [.bus (.read 0x18 .four)] ∧
    (pend [wr 0x18 0xF]).inputs = [.bus (.write 0x18 .four 0xF)] := by decide
theorem witness_ReadAfterWriteReturnsTheWrittenBits : (pend [wr 0x10 1, rd 0x10]).inputs =
    [.bus (.write (regOffset .sample) .four 1), .bus (.read (regOffset .sample) .four)] := by decide
theorem witness_ReadsHaveNoSideEffectAndWritesAreIdempotent :
    (pend [rd 0x18]).inputs = [.bus (.read (regOffset .stat) .four)] ∧ Reg.stat ≠ .cmd ∧
    (pend [wr 0x18 1, wr 0x18 1]).inputs =
      [.bus (.write (regOffset .stat) .four 1), .bus (.write (regOffset .stat) .four 1)] := by decide
theorem witness_FrameLanesAreLittleEndian : 3 < 4 ∧ 7 < 8 := by decide
/-- The window's first and last address, and the first one outside. -/
theorem witness_WindowSelectsExactlyItsAddresses : windowOffset Config.base = some 0 ∧
    windowOffset (Config.base + 0x1F) = some 0x1F ∧ windowOffset (Config.base + 0x20) = none := by
  simp [windowOffset, Config.window]
/-- A reset, and a write of 1, each clear a set bit. -/
theorem witness_StatBitsAreSticky :
    (∃ t, step { pend [.reset] with stat := 1 } = .next t ∧ statHas .illegalCmd t.stat = false) ∧
    (∃ t, step { pend [wr 0x18 1] with stat := 1 } = .next t ∧ statHas .illegalCmd t.stat = false) ∧
    statHas .illegalCmd 1 = true := ⟨⟨_, rfl, by decide⟩, ⟨_, rfl, by decide⟩, by decide⟩
/-- Each error raised from a clear STAT. -/
theorem witness_EachErrorHasItsCause :
    (∃ t, step (pend [wr 0x0C 7]) = .next t ∧ statHas .illegalCmd t.stat = true) ∧
    (∃ t, step { pend [wr 0x0C 2] with cfg := 0x02000001 } = .next t ∧ statHas .cfgErr t.stat = true) ∧
    (∃ t, step (pend [rd 0x1C]) = .next t ∧ statHas .busErr t.stat = true) ∧
    (∃ t, step { pend [wr 0x0C 2] with cfg := 0x08003201, sample := 0x64 } = .next t ∧
      statHas .sat t.stat = true) ∧ ∀ e : Error, statHas e 0 = false :=
  ⟨⟨_, rfl, by decide⟩, ⟨_, rfl, by decide⟩, ⟨_, rfl, by decide⟩, ⟨_, rfl, by decide⟩,
    by intro e; cases e <;> decide⟩
theorem witness_AtMostOneErrorPerTransaction : ∃ t, step (pend [wr 0x0C 7]) = .next t ∧
    statHas .illegalCmd 0 = false ∧ statHas .illegalCmd t.stat = true := ⟨_, rfl, by decide, by decide⟩
theorem witness_CancellingErrorsArePrecise : Error.busErr ≠ .sat ∧ ∃ t, step (pend [rd 0x1C]) = .next t ∧
    statHas .busErr 0 = false ∧ statHas .busErr t.stat = true := ⟨by decide, _, rfl, by decide, by decide⟩
/-- No input, an admitted one, and one of a second master. -/
theorem witness_StepGoesOnForEveryAdmittedInput : State.reset.inputs = [] ∧
    ((pend [.reset]).inputs = [.reset] ∧ ∀ a, Input.reset ≠ .foreign a) ∧
    (pend [.foreign (.read 0 .four)]).inputs = [.foreign (.read 0 .four)] :=
  ⟨rfl, ⟨rfl, fun _ => by simp⟩, rfl⟩
/-- No step yet, a reset next, a read next, and all performed. -/
theorem witness_RunPerformsEveryPendingInput : let s := pend [wr 0 1, .reset, rd 0]
    (∀ a, Input.foreign a ∉ s.inputs) ∧ 0 ≤ s.inputs.length ∧ s.inputs.drop 0 = [wr 0 1, .reset, rd 0] ∧
    s.inputs.drop 1 = [.reset, rd 0] ∧ s.inputs.drop 2 = [rd 0] ∧ s.inputs.length = 3 := by
  simp [pend, wr, rd, State.reset, State.resetWith]
/-- A reset and an executed SHAPE each move LAST_TIME. -/
theorem witness_OnlyShapeAndResetMoveLastTime :
    (∃ t, step { pend [.reset] with lastTime := 5 } = .next t ∧ t.lastTime ≠ 5) ∧
    (∃ t, step { pend [wr 0x0C 2] with now := 5 } = .next t ∧ t.lastTime ≠ 0) :=
  ⟨⟨_, rfl, by decide⟩, ⟨_, rfl, by decide⟩⟩
theorem witness_OnlyTheHostWritesCfgFrameInAndNow :
    (∃ t, step (pend [wr 0x00 1]) = .next t ∧ t.cfg ≠ 0) ∧ (∃ t, step (pend [wr 0x04 1]) = .next t ∧ t.frameIn ≠ 0) ∧
    (∃ t, step (pend [wr 0x08 1]) = .next t ∧ t.now ≠ 0) ∧ ∀ rest, (pend [wr 0x00 1]).inputs ≠ .reset :: rest :=
  ⟨⟨_, rfl, by decide⟩, ⟨_, rfl, by decide⟩, ⟨_, rfl, by decide⟩, by simp [pend, wr]⟩
theorem witness_OnlyDecodeShapeAndHostWriteSample :
    (∃ t, step { pend [.reset] with sample := 1 } = .next t ∧ t.sample ≠ 1) ∧
    (∃ t, step (pend [wr 0x10 1]) = .next t ∧ t.sample ≠ 0) ∧
    (∃ t, step { pend [wr 0x0C 1] with frameIn := 4 } = .next t ∧ t.sample ≠ 0) ∧
    (∃ t, step { pend [wr 0x0C 2] with cfg := 0x01000501, sample := 20 } = .next t ∧ t.sample ≠ 20) :=
  ⟨⟨_, rfl, by decide⟩, ⟨_, rfl, by decide⟩, ⟨_, rfl, by decide⟩, ⟨_, rfl, by decide⟩⟩
theorem witness_ResetInputRestoresEveryRegister : (pend [.reset, rd 0x00]).inputs = [.reset, rd 0x00] := rfl
theorem witness_StepKeepsReservedBitsZero : State.reset.reservedZero pdasV1 ∧
    ∃ t, step State.reset = .next t := ⟨by unfold State.reservedZero; decide, _, rfl⟩
theorem witness_EveryBuildKeepsReservedBitsZero : (pend [wr 0x0C 1]).reservedZero buildV1.params ∧
    ∃ t, stepBy buildV1 (pend [wr 0x0C 1]) = .next t := ⟨by unfold State.reservedZero; decide, _, rfl⟩
/-- Refused just outside the range of TS_W, not refused at its end. -/
theorem witness_PdasV1IsALegalBuild :
    stepBy (exactBuild { pdasV1 with tsW := 33 }) State.reset = .refused .illegalParameters ∧
    stepBy (exactBuild { pdasV1 with tsW := 8 }) State.reset = .next State.reset := ⟨rfl, rfl⟩
theorem witness_PseudoInstructionsExpandAsTheTableSays : (-128 : Int) ≤ -128 ∧ (127 : Int) ≤ 127 := by decide
/-- A label, a comment, and a branch taken and not taken. -/
theorem witness_HostOnlyLinesLeaveTheMachineAlone :
    (Line.label "a").transaction = none ∧ (∃ e t, lineStep ⟨[], 0, []⟩ State.reset (.label "a") = .next e t) ∧
    (∃ e t, lineStep ⟨[.label "a"], 0, [("x", 0)]⟩ State.reset (.ifGoto (skipped "x") "a") = .next e t) ∧
    (∃ e t, lineStep ⟨[], 0, [("x", 0x01000000)]⟩ State.reset (.ifGoto (skipped "x") "a") = .next e t) :=
  ⟨rfl, ⟨_, _, rfl⟩, ⟨_, _, rfl⟩, ⟨_, _, rfl⟩⟩
theorem witness_WellFormedScriptFindsItsLabels : scriptWf (sampleScript (.frame 4 0x11 0xFF 0x05) true 0) = true := by decide
theorem witness_DutifulHostNeverChangesCfgAgain :
    (pend [wr 0x08 5]).inputs = [.bus (.write 0x08 .four 5)] ∧
    ({ Duties.reset with cfgWritten := true }).cfgWritten = true ∧
    ({ Duties.reset with cfgWritten := true }).allows (.write 0x08 .four 5) = true ∧
    ∃ t, step (pend [wr 0x08 5]) = .next t := ⟨rfl, rfl, by decide, _, rfl⟩
theorem witness_DutifulHostRaisesNoInterfaceError :
    (pend [wr 0x0C 1]).inputs = [.bus (.write 0x0C .four (encode .decode))] ∧
    ({ Duties.reset with frameNew := true }).allows (.write 0x0C .four (encode .decode)) = true ∧
    Instr.shapeX.isShape = true := ⟨rfl, by decide⟩

end Sys2Proof.Tests
end

section
/-! SUPPORT. 00 R7: which builds are refused. A step refuses only where its parameters are not legal, because
nothing on the bus refuses unless a command does, and no command does. -/

namespace Sys2Proof.Machine

/-- The Boolean check of a build says what the seven rows of 00 R7 say. -/
theorem legal_iff (p : Params) : p.legal = true ↔
    p.drBit ≤ 7 ∧ p.xSignBit ≤ 7 ∧ p.ySignBit ≤ 7 ∧ p.xSignBit ≠ p.ySignBit ∧ p.btnLo ≤ 5 ∧
      8 ≤ p.tsW ∧ p.tsW ≤ 32 ∧ p.factorFrac ≤ 16 := by
  simp [Params.legal, Params.drBitOk, Params.xSignOk, Params.ySignOk, Params.signsDiffer, Params.btnLoOk,
    Params.tsWOk, Params.factorFracOk, and_assoc]

section RefusalFreeRunner
variable {run : Runner} {r : Refusal} (hrun : ∀ i t, run i t ≠ .refused r)
include hrun

theorem writeCmd_ne_refused (v : Word) (s : State) : writeCmd run v s ≠ .refused r := by
  cases hd : decode v with
  | command i => rw [writeCmd_command run s hd]; exact hrun i s
  | illegal w => rw [writeCmd_illegal run s hd]; nofun

theorem busWrite_ne_refused (p : Params) (off : Offset) (size : Size) (v : Word) (s : State) :
    busWrite p run off size v s ≠ .refused r := by
  cases hs : selected off size with
  | none => rw [busWrite_none p run v s hs]; nofun
  | some q =>
    by_cases hq : q = .cmd
    · rw [busWrite_cmd p run v s (hq ▸ hs)]; exact writeCmd_ne_refused hrun v s
    · rw [busWrite_reg p run v s hs hq]; nofun

theorem transact_ne_refused (p : Params) (a : Access) (s : State) : transact p run a s ≠ .refused r := by
  cases a with
  | write off size v => exact busWrite_ne_refused hrun p off size v s
  | read off size => nofun

theorem stepVia_ne_refused (p : Params) (s : State) : stepVia p run s ≠ .refused r := by
  rw [stepVia]
  split
  case h_1 => nofun
  case h_2 a rest _ => exact transact_ne_refused hrun p a _
  case h_3 => nofun
  case h_4 => nofun

end RefusalFreeRunner

theorem stepBy_of_legal {b : Build} (h : b.params.legal = true) (s : State) :
    stepBy b s = stepVia b.params (fun i t => .next (commandOf b i t)) s := by
  rw [stepBy, if_pos h]

theorem stepBy_of_not_legal {b : Build} (h : ¬ b.params.legal = true) (s : State) :
    stepBy b s = .refused .illegalParameters := by
  rw [stepBy, if_neg h]

theorem stepBy_eq_refused_iff (b : Build) (s : State) :
    stepBy b s = .refused .illegalParameters ↔ ¬ b.params.legal = true := by
  constructor
  · intro hrefused hlegal
    rw [stepBy_of_legal hlegal] at hrefused
    exact stepVia_ne_refused (by nofun) _ _ hrefused
  · intro h
    exact stepBy_of_not_legal h s

/-- The general step at the PDAS v1 values runs the commands of `exec`. -/
theorem stepBy_buildV1 (s : State) : stepBy buildV1 s = step s := by
  have hexec : (fun i t => .next (commandOf buildV1 i t)) = exec :=
    funext fun i => funext fun t => (exec_eq_commandOf i t).symm
  rw [stepBy_of_legal (b := buildV1) (by decide), hexec, buildV1_params, step]

end Sys2Proof.Machine
end

section
/-! PROOFS. The statements of 00_scope.md. -/

namespace Sys2Proof.Proofs

open Sys2Proof Sys2Proof.Machine

/-- Settles O55: a step refuses by `illegalParameters` exactly where `Params.legal` fails, and that check is
the conjunction of 00 R7. -/
theorem pdasV1IsALegalBuild : Obligations.PdasV1IsALegalBuild := by
  unfold Obligations.PdasV1IsALegalBuild
  refine ⟨fun b s => ?_, stepBy_buildV1⟩
  rw [stepBy_eq_refused_iff, legal_iff]

end Sys2Proof.Proofs
end

section
/-! SUPPORT. The word a command was decoded from, and the bits a mask leaves out: what the registers' reserved
bits are after a masked write, a field write of SAMPLE and a write or an error of STAT. -/

namespace Sys2Proof

theorem toNat_of_decodeOp {op : BitVec 4} {i : Instr} (h : decodeOp op = .command i) :
    op.toNat = (encode i).toNat := by
  revert op
  cases i <;> decide

/-- 30 R57: a command has one word. -/
theorem eq_encode_of_decode {w : Word} {i : Instr} (h : decode w = .command i) : w = encode i := by
  by_cases hm : mbzField w = 0
  · rw [decode_of_mbz_zero hm] at h
    exact BitVec.eq_of_toNat_eq ((toNat_of_mbz_zero hm).trans (toNat_of_decodeOp h))
  · rw [decode_of_mbz hm] at h
    cases h

end Sys2Proof

namespace Sys2Proof.Machine

/-- A masked word has no bit outside its mask. -/
theorem and_and_not_self (v m : Word) : v &&& m &&& ~~~m = 0 := by
  simp [BitVec.and_assoc]

/-- A word with no bit outside a mask is what the mask keeps of it. -/
theorem and_mask_of_and_not {w m : Word} (h : w &&& ~~~m = 0) : w &&& m = w := by
  calc w &&& m = w &&& m ||| w &&& ~~~m := by simp [h]
    _ = w := by rw [← BitVec.and_or_distrib_left, BitVec.or_not_self, BitVec.and_allOnes]

/-- Words that differ inside a mask only agree outside it. -/
theorem and_not_congr {v w m : Word} (h : ∀ i, m.getLsbD i = false → v.getLsbD i = w.getLsbD i) :
    v &&& ~~~m = w &&& ~~~m := by
  apply BitVec.eq_of_getLsbD_eq
  intro i hi
  cases hm : m.getLsbD i with
  | false => simp [hm, h i hm]
  | true => simp [hm]

/-! ### The reserved bits of SAMPLE (10 R29) -/

/-- The fields of SAMPLE are defined bits, so a reserved bit lies in none of them. -/
theorem not_field_of_sampleMask {i : Nat} (h : sampleMask.getLsbD i = false) : 19 ≤ i ∧ i ≠ 24 := by
  have hfields : ∀ j < 25, sampleMask.getLsbD j = false → 19 ≤ j ∧ j ≠ 24 := by decide
  by_cases hi : i < 25
  · exact hfields i hi h
  · omega

@[simp] theorem setDx_reserved (w : Word) (b : Byte) :
    setDx w b &&& ~~~sampleMask = w &&& ~~~sampleMask :=
  and_not_congr fun i hi => by
    have := not_field_of_sampleMask hi
    rw [getLsbD_setDx, if_neg (by omega)]

@[simp] theorem setDy_reserved (w : Word) (b : Byte) :
    setDy w b &&& ~~~sampleMask = w &&& ~~~sampleMask :=
  and_not_congr fun i hi => by
    have := not_field_of_sampleMask hi
    rw [getLsbD_setDy, if_neg (by omega)]

@[simp] theorem setButtons_reserved (w : Word) (b : BitVec 3) :
    setButtons w b &&& ~~~sampleMask = w &&& ~~~sampleMask :=
  and_not_congr fun i hi => by
    have := not_field_of_sampleMask hi
    rw [getLsbD_setButtons, if_neg (by omega)]

@[simp] theorem setValid_reserved (w : Word) (v : Bool) :
    setValid w v &&& ~~~sampleMask = w &&& ~~~sampleMask :=
  and_not_congr fun i hi => by
    have := not_field_of_sampleMask hi
    rw [getLsbD_setValid, if_neg (by omega)]

@[simp] theorem decodedSample_reserved (p : Params) (frame sample : Word) :
    decodedSample p frame sample &&& ~~~sampleMask = sample &&& ~~~sampleMask := by
  rw [decodedSample]
  split <;> simp

/-! ### The reserved bits of STAT (10 R33) -/

@[simp] theorem statRaise_reserved (e : Error) (w : Word) :
    statRaise e w &&& ~~~statMask = w &&& ~~~statMask := by
  have hbit : (1#32 <<< errorBit e) &&& ~~~statMask = 0 := by cases e <;> decide
  rw [BitVec.and_comm] at hbit
  rw [statRaise, BitVec.and_comm, BitVec.and_or_distrib_left, hbit, BitVec.and_comm]
  simp

theorem statClear_reserved {w : Word} (v : Word) (h : w &&& ~~~statMask = 0) :
    statClear v w &&& ~~~statMask = 0 := by
  calc statClear v w &&& ~~~statMask = w &&& ~~~statMask &&& ~~~(v &&& statMask) := by
        rw [statClear, BitVec.and_assoc, BitVec.and_assoc, BitVec.and_comm (~~~statMask)]
    _ = 0 := by simp [h]

end Sys2Proof.Machine
end

section
/-! SUPPORT. What the commands do to each register, and all that one step of any build can do. -/

namespace Sys2Proof.Machine

/-- 41 R81: the refusal check of the SHAPE commands, as the rules say it. -/
theorem shapeRefused_iff (cfg : Word) :
    shapeRefused cfg = true ↔ accelEn cfg = true ∧ threshold cfg = 0 := by
  simp [shapeRefused]

/-! ### One axis -/

@[simp] theorem shapeDx_cfg (b : Build) (s : State) : (shapeDx b s).cfg = s.cfg := by
  simp [shapeDx, shapeAxis_state]
@[simp] theorem shapeDx_frameIn (b : Build) (s : State) : (shapeDx b s).frameIn = s.frameIn := by
  simp [shapeDx, shapeAxis_state]
@[simp] theorem shapeDx_now (b : Build) (s : State) : (shapeDx b s).now = s.now := by
  simp [shapeDx, shapeAxis_state]
@[simp] theorem shapeDx_lastTime (b : Build) (s : State) : (shapeDx b s).lastTime = s.now := by
  simp [shapeDx, shapeAxis_state]
theorem shapeDx_sample (b : Build) (s : State) :
    (shapeDx b s).sample = setDx s.sample (shapeAxis b (dx s.sample) s).1 := by
  simp [shapeDx, shapeAxis_state]
theorem shapeDx_stat (b : Build) (s : State) :
    (shapeDx b s).stat = s.stat ∨ (shapeDx b s).stat = statRaise .sat s.stat := by
  simp only [shapeDx, shapeAxis_state]
  split
  · exact .inr rfl
  · exact .inl rfl

@[simp] theorem shapeDy_cfg (b : Build) (s : State) : (shapeDy b s).cfg = s.cfg := by
  simp [shapeDy, shapeAxis_state]
@[simp] theorem shapeDy_frameIn (b : Build) (s : State) : (shapeDy b s).frameIn = s.frameIn := by
  simp [shapeDy, shapeAxis_state]
@[simp] theorem shapeDy_now (b : Build) (s : State) : (shapeDy b s).now = s.now := by
  simp [shapeDy, shapeAxis_state]
@[simp] theorem shapeDy_lastTime (b : Build) (s : State) : (shapeDy b s).lastTime = s.now := by
  simp [shapeDy, shapeAxis_state]
theorem shapeDy_sample (b : Build) (s : State) :
    (shapeDy b s).sample = setDy s.sample (shapeAxis b (dy s.sample) s).1 := by
  simp [shapeDy, shapeAxis_state]
theorem shapeDy_stat (b : Build) (s : State) :
    (shapeDy b s).stat = s.stat ∨ (shapeDy b s).stat = statRaise .sat s.stat := by
  simp only [shapeDy, shapeAxis_state]
  split
  · exact .inr rfl
  · exact .inl rfl

/-! ### One command -/

/-- A command is nothing, DECODE, a refusal, or one or two axis evaluations: what each of these keeps, the
command keeps. -/
theorem commandOf_preserves {P : State → Prop} {b : Build} {i : Instr} {s : State}
    (hdecode : i = .decode → P (decodeState b.params s)) (hrefuse : P (raise .cfgErr s))
    (hx : ∀ t, P t → P (shapeDx b t)) (hy : ∀ t, P t → P (shapeDy b t)) (hs : P s) :
    P (commandOf b i s) := by
  cases i with
  | nop => exact hs
  | decode => exact hdecode rfl
  | shapeX =>
    rw [commandOf, shapeXState]
    split
    · exact hrefuse
    · exact hx s hs
  | shapeY =>
    rw [commandOf, shapeYState]
    split
    · exact hrefuse
    · exact hy s hs
  | shapeXY =>
    rw [commandOf, shapeXYState]
    split
    · exact hrefuse
    · exact hy _ (hx s hs)

/-- 10 R25 to R27: no command writes CFG, FRAME_IN or NOW. -/
@[simp] theorem commandOf_cfg (b : Build) (i : Instr) (s : State) : (commandOf b i s).cfg = s.cfg :=
  commandOf_preserves (P := (·.cfg = s.cfg)) (fun _ => rfl) rfl (fun t => (shapeDx_cfg b t).trans)
    (fun t => (shapeDy_cfg b t).trans) rfl
@[simp] theorem commandOf_frameIn (b : Build) (i : Instr) (s : State) :
    (commandOf b i s).frameIn = s.frameIn :=
  commandOf_preserves (P := (·.frameIn = s.frameIn)) (fun _ => rfl) rfl
    (fun t => (shapeDx_frameIn b t).trans) (fun t => (shapeDy_frameIn b t).trans) rfl
@[simp] theorem commandOf_now (b : Build) (i : Instr) (s : State) : (commandOf b i s).now = s.now :=
  commandOf_preserves (P := (·.now = s.now)) (fun _ => rfl) rfl (fun t => (shapeDx_now b t).trans)
    (fun t => (shapeDy_now b t).trans) rfl

/-- 10 R31, 41 R82: an executed SHAPE sets LAST_TIME to NOW; no other command moves it. -/
theorem commandOf_lastTime (b : Build) (i : Instr) (s : State) : (commandOf b i s).lastTime =
    if i.isShape = true ∧ shapeRefused s.cfg = false then s.now else s.lastTime := by
  cases i with
  | nop => rfl
  | decode => rfl
  | shapeX => rw [commandOf, shapeXState]; cases shapeRefused s.cfg <;> simp [Instr.isShape]
  | shapeY => rw [commandOf, shapeYState]; cases shapeRefused s.cfg <;> simp [Instr.isShape]
  | shapeXY => rw [commandOf, shapeXYState]; cases shapeRefused s.cfg <;> simp [Instr.isShape]

/-- Only DECODE writes VALID and BUTTONS (30 R57, 41 R93). -/
theorem commandOf_valid_buttons (b : Build) {i : Instr} (s : State) (hi : i ≠ .decode) :
    valid (commandOf b i s).sample = valid s.sample ∧
      buttons (commandOf b i s).sample = buttons s.sample :=
  commandOf_preserves (P := fun t => valid t.sample = valid s.sample ∧ buttons t.sample = buttons s.sample)
    (fun h => absurd h hi) ⟨rfl, rfl⟩ (fun t ht => by simpa [shapeDx_sample] using ht)
    (fun t ht => by simpa [shapeDy_sample] using ht) ⟨rfl, rfl⟩

/-- Raising an error clears no STAT bit. -/
theorem statHas_raise_of_statHas {e : Error} (f : Error) {s : State} (h : statHas e s.stat = true) :
    statHas e (raise f s).stat = true := by
  rw [raise_stat, statHas_statRaise, h, Bool.true_or]

/-- No command clears a STAT bit (10 R33). -/
theorem statHas_commandOf_of_statHas {e : Error} (b : Build) (i : Instr) {s : State}
    (h : statHas e s.stat = true) : statHas e (commandOf b i s).stat = true := by
  refine commandOf_preserves (P := fun t => statHas e t.stat = true) (fun _ => h)
    (statHas_raise_of_statHas _ h) (fun t ht => ?_) (fun t ht => ?_) h
  · rcases shapeDx_stat b t with hstat | hstat <;> rw [hstat]
    · exact ht
    · exact statHas_raise_of_statHas .sat ht
  · rcases shapeDy_stat b t with hstat | hstat <;> rw [hstat]
    · exact ht
    · exact statHas_raise_of_statHas .sat ht

/-! ### One step -/

/-- How a step of build b takes s to t: the registers kept or one error raised, whatever becomes of the
boundary's record; a reset; a register written; a command run. -/
inductive StepEffect (b : Build) (s t : State) : Prop where
  | kept (xs : List Input) (ys : List Word) (ht : t = { s with inputs := xs, responses := ys })
  | raised (e : Error) (xs : List Input) (ys : List Word)
      (ht : t = { raise e s with inputs := xs, responses := ys })
  | reset (rest : List Input) (hin : s.inputs = .reset :: rest)
      (ht : t = resetBlock b.params { s with inputs := rest })
  | written (r : Reg) (v : Word) (rest : List Input)
      (hin : s.inputs = .bus (.write (regOffset r) .four v) :: rest)
      (ht : t = writeReg b.params r v { s with inputs := rest })
  | commanded (i : Instr) (rest : List Input)
      (hin : s.inputs = .bus (.write (regOffset .cmd) .four (encode i)) :: rest)
      (ht : t = commandOf b i { s with inputs := rest })

/-- A bus read keeps the registers, or raises BUS_ERR. -/
theorem busRead_effect {b : Build} (off : Offset) (size : Size) (s : State) (rest : List Input) :
    StepEffect b s (busRead b.params off size { s with inputs := rest }) := by
  cases hs : selected off size with
  | none => exact .raised .busErr rest _ (busRead_none _ _ hs)
  | some r => exact .kept rest _ (busRead_reg _ _ hs)

theorem busWrite_effect {b : Build} {off : Offset} {size : Size} {v : Word} {s t : State}
    {rest : List Input} (hin : s.inputs = .bus (.write off size v) :: rest)
    (h : busWrite b.params (fun i u => .next (commandOf b i u)) off size v { s with inputs := rest } = .next t) :
    StepEffect b s t := by
  cases hs : selected off size with
  | none =>
    rw [busWrite_none _ _ _ _ hs] at h
    exact .raised .busErr rest s.responses (Host.Outcome.next.inj h).symm
  | some r =>
    obtain ⟨rfl, rfl⟩ := selected_eq_some.mp hs
    by_cases hr : r = .cmd
    · subst hr
      rw [busWrite_cmd _ _ _ _ hs] at h
      cases hd : decode v with
      | illegal w =>
        rw [writeCmd_illegal _ _ hd] at h
        exact .raised .illegalCmd rest s.responses (Host.Outcome.next.inj h).symm
      | command i =>
        rw [writeCmd_command _ _ hd] at h
        exact .commanded i rest (eq_encode_of_decode hd ▸ hin) (Host.Outcome.next.inj h).symm
    · rw [busWrite_reg _ _ _ _ hs hr] at h
      exact .written r v rest hin (Host.Outcome.next.inj h).symm

/-- A step of any build that goes on has one of the effects above. -/
theorem stepBy_effect {b : Build} {s t : State} (h : stepBy b s = .next t) : StepEffect b s t := by
  have hlegal : b.params.legal = true := by
    by_contra hn
    rw [stepBy_of_not_legal hn] at h
    cases h
  rw [stepBy_of_legal hlegal, stepVia] at h
  split at h
  case h_1 => exact .kept s.inputs s.responses (Host.Outcome.next.inj h).symm
  case h_2 a rest hin =>
    cases a with
    | write off size v => exact busWrite_effect hin h
    | read off size => exact Host.Outcome.next.inj h ▸ busRead_effect off size s rest
  case h_3 rest hin => exact .reset rest hin (Host.Outcome.next.inj h).symm
  case h_4 => cases h

/-- The step of PDAS v1 has the effects of its build. -/
theorem step_effect {s t : State} (h : step s = .next t) : StepEffect buildV1 s t :=
  stepBy_effect ((stepBy_buildV1 s).trans h)

end Sys2Proof.Machine
end

section
/-! SUPPORT. The invariant `State.reservedZero` (10 R23, R27, R29, R31, R33): reset meets it, and every register
write, error, axis evaluation and command keeps it. -/

namespace Sys2Proof.Machine

theorem reservedZero_resetWith (p : Params) : (State.resetWith p).reservedZero p :=
  ⟨BitVec.zero_and, BitVec.zero_and, BitVec.zero_and, and_and_not_self _ _, BitVec.zero_and⟩

theorem reservedZero_raise {p : Params} (e : Error) {s : State} (h : s.reservedZero p) :
    (raise e s).reservedZero p := by
  simpa [State.reservedZero] using h

theorem reservedZero_writeReg {p : Params} (r : Reg) (v : Word) {s : State} (h : s.reservedZero p) :
    (writeReg p r v s).reservedZero p := by
  obtain ⟨hcfg, hnow, hsample, hlast, hstat⟩ := h
  cases r with
  | cfg => exact ⟨and_and_not_self _ _, hnow, hsample, hlast, hstat⟩
  | now => exact ⟨hcfg, and_and_not_self _ _, hsample, hlast, hstat⟩
  | sample => exact ⟨hcfg, hnow, and_and_not_self _ _, hlast, hstat⟩
  | stat => exact ⟨hcfg, hnow, hsample, hlast, statClear_reserved v hstat⟩
  | frameIn => exact ⟨hcfg, hnow, hsample, hlast, hstat⟩
  | cmd => exact ⟨hcfg, hnow, hsample, hlast, hstat⟩
  | lastTime => exact ⟨hcfg, hnow, hsample, hlast, hstat⟩

theorem reservedZero_decodeState {p : Params} {s : State} (h : s.reservedZero p) :
    (decodeState p s).reservedZero p := by
  simpa [State.reservedZero, decodeState] using h

/-- LAST_TIME takes a NOW whose reserved bits are 0, and SAT is a defined bit of STAT. -/
theorem reservedZero_shapeDx {b : Build} {s : State} (h : s.reservedZero b.params) :
    (shapeDx b s).reservedZero b.params := by
  obtain ⟨hcfg, hnow, hsample, -, hstat⟩ := h
  rcases shapeDx_stat b s with hst | hst <;>
    simp [State.reservedZero, shapeDx_sample, hst, hcfg, hnow, hsample, hstat]

theorem reservedZero_shapeDy {b : Build} {s : State} (h : s.reservedZero b.params) :
    (shapeDy b s).reservedZero b.params := by
  obtain ⟨hcfg, hnow, hsample, -, hstat⟩ := h
  rcases shapeDy_stat b s with hst | hst <;>
    simp [State.reservedZero, shapeDy_sample, hst, hcfg, hnow, hsample, hstat]

theorem reservedZero_commandOf {b : Build} (i : Instr) {s : State} (h : s.reservedZero b.params) :
    (commandOf b i s).reservedZero b.params :=
  commandOf_preserves (P := (·.reservedZero b.params)) (fun _ => reservedZero_decodeState h)
    (reservedZero_raise _ h) (fun _ => reservedZero_shapeDx) (fun _ => reservedZero_shapeDy) h

/-- The boundary's record is no part of the invariant, so the input a step takes and the value it returns do
not matter here. -/
theorem reservedZero_stepBy {b : Build} {s t : State} (hs : s.reservedZero b.params)
    (h : stepBy b s = .next t) : t.reservedZero b.params := by
  cases stepBy_effect h with
  | kept xs ys ht => subst ht; exact hs
  | raised e xs ys ht => subst ht; exact reservedZero_raise e hs
  | reset rest hin ht => subst ht; exact reservedZero_resetWith b.params
  | written r v rest hin ht => subst ht; exact reservedZero_writeReg r v hs
  | commanded i rest hin ht => subst ht; exact reservedZero_commandOf i hs

end Sys2Proof.Machine
end

section
/-! PROOFS. The statements of 10_state.md. -/

namespace Sys2Proof.Proofs

open Sys2Proof Sys2Proof.Machine

/-- Settles O41: of what a step can do, only a reset and a write to STAT clear a bit, and `statClear` clears
the bits written 1. -/
theorem statBitsAreSticky : Obligations.StatBitsAreSticky := by
  unfold Obligations.StatBitsAreSticky
  intro s t e h hset hclear
  have hlost : ¬ statHas e t.stat = true := by simp [hclear]
  cases step_effect h with
  | kept xs ys ht => subst ht; exact absurd hset hlost
  | raised f xs ys ht => subst ht; exact (hlost (statHas_raise_of_statHas f hset)).elim
  | reset rest hin ht => exact .inl ⟨rest, hin⟩
  | written r v rest hin ht =>
    subst ht
    by_cases hr : r = .stat
    · subst hr
      have hv : (statHas e s.stat && !statHas e v) = false := statHas_statClear e v s.stat ▸ hclear
      exact .inr ⟨v, rest, hin, by simpa [hset] using hv⟩
    · rw [writeReg_stat_of_ne _ _ _ hr] at hlost
      exact absurd hset hlost
  | commanded i rest hin ht =>
    subst ht
    exact (hlost (statHas_commandOf_of_statHas buildV1 i hset)).elim

/-- Settles O54, by what a step can do: each effect keeps the invariant. -/
theorem everyBuildKeepsReservedBitsZero : Obligations.EveryBuildKeepsReservedBitsZero := by
  unfold Obligations.EveryBuildKeepsReservedBitsZero
  exact fun _ _ _ => reservedZero_stepBy

/-- Settles O53: PDAS v1 is a build, and the mask of a read keeps a word that has no other bits. -/
theorem stepKeepsReservedBitsZero : Obligations.StepKeepsReservedBitsZero := by
  unfold Obligations.StepKeepsReservedBitsZero
  intro s t hs h
  have ht : t.reservedZero pdasV1 := reservedZero_stepBy (b := buildV1) hs ((stepBy_buildV1 s).trans h)
  have ⟨hcfg, hnow, hsample, hlast, hstat⟩ := ht
  exact ⟨ht, and_mask_of_and_not hcfg, and_mask_of_and_not hnow, and_mask_of_and_not hsample,
    and_mask_of_and_not hlast, and_mask_of_and_not hstat⟩

/-- Settles O47: no host write reaches LAST_TIME, and of the commands only an executed SHAPE. -/
theorem onlyShapeAndResetMoveLastTime : Obligations.OnlyShapeAndResetMoveLastTime := by
  unfold Obligations.OnlyShapeAndResetMoveLastTime
  intro s t h hne
  cases step_effect h with
  | kept xs ys ht => subst ht; exact absurd rfl hne
  | raised e xs ys ht => subst ht; exact absurd rfl hne
  | reset rest hin ht => subst ht; exact .inl ⟨rest, hin, BitVec.zero_and⟩
  | written r v rest hin ht => subst ht; exact absurd (writeReg_lastTime _ r v _) hne
  | commanded i rest hin ht =>
    subst ht
    rw [commandOf_lastTime] at hne ⊢
    obtain ⟨hshape, haccepted⟩ : i.isShape = true ∧ shapeRefused s.cfg = false :=
      by_contra fun hn => hne (if_neg hn)
    refine .inr ⟨i, rest, hshape, hin, ?_, if_pos ⟨hshape, haccepted⟩⟩
    rw [← shapeRefused_iff]
    exact Bool.eq_false_iff.mp haccepted

/-- Settles O48: a command keeps all three registers, and a register write every register but its own. -/
theorem onlyTheHostWritesCfgFrameInAndNow : Obligations.OnlyTheHostWritesCfgFrameInAndNow := by
  unfold Obligations.OnlyTheHostWritesCfgFrameInAndNow
  intro s t h hreset
  cases step_effect h with
  | kept xs ys ht => subst ht; exact ⟨absurd rfl, absurd rfl, absurd rfl⟩
  | raised e xs ys ht => subst ht; exact ⟨absurd rfl, absurd rfl, absurd rfl⟩
  | reset rest hin ht => exact absurd hin (hreset rest)
  | written r v rest hin ht =>
    subst ht
    refine ⟨fun hne => ⟨v, rest, ?_⟩, fun hne => ⟨v, rest, ?_⟩, fun hne => ⟨v, rest, ?_⟩⟩
    · obtain rfl : r = .cfg := by_contra fun hr => hne (writeReg_cfg_of_ne _ v _ hr)
      exact hin
    · obtain rfl : r = .frameIn := by_contra fun hr => hne (writeReg_frameIn_of_ne _ v _ hr)
      exact hin
    · obtain rfl : r = .now := by_contra fun hr => hne (writeReg_now_of_ne _ v _ hr)
      exact hin
  | commanded i rest hin ht =>
    subst ht
    exact ⟨absurd (commandOf_cfg _ i _), absurd (commandOf_frameIn _ i _), absurd (commandOf_now _ i _)⟩

/-- Settles O49: a command other than DECODE keeps VALID and BUTTONS, and one that is no SHAPE either, NOP,
keeps all of SAMPLE. -/
theorem onlyDecodeShapeAndHostWriteSample : Obligations.OnlyDecodeShapeAndHostWriteSample := by
  unfold Obligations.OnlyDecodeShapeAndHostWriteSample
  intro s t h hne
  cases step_effect h with
  | kept xs ys ht => subst ht; exact absurd rfl hne
  | raised e xs ys ht => subst ht; exact absurd rfl hne
  | reset rest hin ht => exact .inl ⟨rest, hin⟩
  | written r v rest hin ht =>
    subst ht
    obtain rfl : r = .sample := by_contra fun hr => hne (writeReg_sample_of_ne _ v _ hr)
    exact .inr (.inl ⟨v, rest, hin⟩)
  | commanded i rest hin ht =>
    subst ht
    cases hshape : i.isShape with
    | true =>
      have hi : i ≠ .decode := by rintro rfl; cases hshape
      exact .inr (.inr (.inr ⟨i, rest, hshape, hin, commandOf_valid_buttons buildV1 _ hi⟩))
    | false =>
      cases i with
      | nop => exact absurd rfl hne
      | decode => exact .inr (.inr (.inl ⟨rest, hin⟩))
      | shapeX => cases hshape
      | shapeY => cases hshape
      | shapeXY => cases hshape

/-- Settles O6: a 4-byte write at 0x0C reaches CMD, which runs the command its word decodes to. -/
theorem stepRunsTheDecodedCommand : Obligations.StepRunsTheDecodedCommand := by
  unfold Obligations.StepRunsTheDecodedCommand
  intro s w i rest _ hdecode hin
  rw [step_of_cmdWrite hin, writeCmd_command exec _ hdecode]

/-- Settles O50: five registers are literally 0, and LAST_TIME is the parameter's 0 under the time mask. -/
theorem resetGivesEveryRegisterItsValue : Obligations.ResetGivesEveryRegisterItsValue := by
  unfold Obligations.ResetGivesEveryRegisterItsValue
  exact ⟨rfl, rfl, rfl, rfl, BitVec.zero_and, rfl⟩

/-- Settles O52: the PDAS v1 reset state is that of its parameters. -/
theorem resetHasReservedBitsZero : Obligations.ResetHasReservedBitsZero := by
  unfold Obligations.ResetHasReservedBitsZero
  exact ⟨reservedZero_resetWith pdasV1, reservedZero_resetWith⟩

end Sys2Proof.Proofs
end

section
/-! SUPPORT. The bus as the host sees it (spec/20_memory.md): which accesses are bus errors, what a step is for
each kind of access, what a register keeps of a write, and which addresses select PDAS. -/

namespace Sys2Proof

/-- The law of every command, from the laws of each. -/
theorem roundTrip (i : Instr) : Laws.RoundTrip.Statement i := by
  cases i with
  | nop => exact Laws.RoundTrip.nop
  | decode => exact Laws.RoundTrip.decode
  | shapeX => exact Laws.RoundTrip.shapeX
  | shapeY => exact Laws.RoundTrip.shapeY
  | shapeXY => exact Laws.RoundTrip.shapeXY

theorem decode_encode (i : Instr) : decode (encode i) = .command i :=
  have ⟨_, _, hdecode⟩ := roundTrip i
  hdecode

/-- A word of no command is illegal (30 R58). -/
theorem exists_illegal_of_ne_encode {w : Word} (h : ∀ i, w ≠ encode i) : ∃ why, decode w = .illegal why := by
  cases hd : decode w with
  | illegal why => exact ⟨why, rfl⟩
  | command i => exact absurd (eq_encode_of_decode hd) (h i)

end Sys2Proof

namespace Sys2Proof.Machine

/-! ### The step of one access -/

theorem regAt_eq_none_iff (off : Offset) : regAt off = none ↔ off.toNat % 4 ≠ 0 ∨ off = 0x1C := by
  revert off; decide

/-- An access selects no register exactly when 20 R43 calls it a bus error. -/
theorem selected_eq_none_iff (off : Offset) (size : Size) : selected off size = none ↔ isBusError off size := by
  cases size <;> simp [selected, isBusError, regAt_eq_none_iff]

theorem selected_regOffset (r : Reg) : selected (regOffset r) .four = some r :=
  selected_eq_some.mpr ⟨rfl, rfl⟩

section OneAccess
variable {s : State} {off : Offset} {size : Size} {r : Reg} {v : Word} {rest : List Input}

theorem step_of_bad_read (hbad : isBusError off size) (h : s.inputs = .bus (.read off size) :: rest) :
    step s = .next { raise .busErr s with inputs := rest, responses := s.responses ++ [0] } := by
  rw [step_of_bus h, transact, busRead_none _ _ ((selected_eq_none_iff off size).mpr hbad)]
  rfl

theorem step_of_bad_write (hbad : isBusError off size) (h : s.inputs = .bus (.write off size v) :: rest) :
    step s = .next { raise .busErr s with inputs := rest } := by
  rw [step_of_bus h, transact, busWrite_none _ _ _ _ ((selected_eq_none_iff off size).mpr hbad)]
  rfl

theorem step_of_readReg (h : s.inputs = .bus (.read (regOffset r) .four) :: rest) :
    step s = .next { s with inputs := rest, responses := s.responses ++ [readReg pdasV1 r s] } := by
  rw [step_of_bus h, transact, busRead_reg _ _ (selected_regOffset r)]
  cases r <;> rfl

theorem step_of_writeReg (hr : r ≠ .cmd) (h : s.inputs = .bus (.write (regOffset r) .four v) :: rest) :
    step s = .next (writeReg pdasV1 r v { s with inputs := rest }) := by
  rw [step_of_bus h, transact, busWrite_reg _ _ _ _ (selected_regOffset r) hr]

end OneAccess

/-! ### What a register keeps of a write -/

theorem sameRegs_withBoundary (s : State) (xs : List Input) (ys : List Word) :
    s.sameRegs { s with inputs := xs, responses := ys } :=
  ⟨rfl, rfl, rfl, rfl, rfl, rfl⟩

/-- The defined bits of a register (10 R22 to R33). -/
def definedBits (p : Params) : Reg → Word
  | .cfg => cfgMask
  | .frameIn => BitVec.allOnes 32
  | .now => tsMask p
  | .cmd => 0
  | .sample => sampleMask
  | .lastTime => tsMask p
  | .stat => statMask

/-- A read/write register returns the defined bits of what was last written to it (20 R44). -/
theorem readReg_writeReg_same (p : Params) {r : Reg} (v : Word) (s : State)
    (hr : r = .cfg ∨ r = .frameIn ∨ r = .now ∨ r = .sample) :
    readReg p r (writeReg p r v s) = v &&& definedBits p r := by
  have hmask (m : Word) : v &&& m &&& m = v &&& m := by rw [BitVec.and_assoc, BitVec.and_self]
  rcases hr with rfl | rfl | rfl | rfl
  · exact hmask cfgMask
  · exact BitVec.and_allOnes.symm
  · exact hmask (tsMask p)
  · exact hmask sampleMask

/-- Clearing flags that are already cleared does nothing. -/
theorem statClear_statClear (v w : Word) : statClear v (statClear v w) = statClear v w := by
  rw [statClear, statClear, BitVec.and_assoc, BitVec.and_self]

/-- A write repeated at once changes nothing, whatever stands at the boundary in between. -/
theorem writeReg_writeReg (p : Params) (r : Reg) (v : Word) (s : State) (xs : List Input) :
    writeReg p r v { writeReg p r v s with inputs := xs } = { writeReg p r v s with inputs := xs } := by
  cases r with
  | stat => simp only [writeReg, statClear_statClear]
  | cfg => rfl
  | frameIn => rfl
  | now => rfl
  | cmd => rfl
  | sample => rfl
  | lastTime => rfl

/-! ### The byte lanes (20 R48) -/

theorem getLsbD_lane (w : Word) (k : Nat) {i : Nat} (hi : i < 8) :
    (lane w k).getLsbD i = w.getLsbD (8 * k + i) := by
  simp [lane, hi]

/-- Of a word with the byte b appended, byte 0 is b, and the bytes above it are those of the word. -/
theorem extractLsb'_append_byte_low {n : Nat} (x : BitVec n) (b : Byte) : (x ++ b).extractLsb' 0 8 = b := by
  rw [BitVec.extractLsb'_append_eq_of_add_le (by decide), BitVec.extractLsb'_eq_self]
theorem extractLsb'_append_byte_high {n : Nat} (x : BitVec n) (b : Byte) (k : Nat) :
    (x ++ b).extractLsb' (k + 8) 8 = x.extractLsb' k 8 := by
  rw [BitVec.extractLsb'_append_eq_of_le (by omega), Nat.add_sub_cancel]

/-- The fields of FRAME_IN (10 R26) are the bytes the word was loaded from: skip the bytes below, one at a
time. -/
theorem frame_fields_wordOfLanes (b0 b1 b2 b3 : Byte) : let w := wordOfLanes b0 b1 b2 b3
    frameStatus w = b0 ∧ frameP0 w = b1 ∧ frameP1 w = b2 ∧ frameP2 w = b3 := by
  have low {n : Nat} (x : BitVec n) := extractLsb'_append_byte_low x
  have high {n : Nat} (x : BitVec n) := extractLsb'_append_byte_high x
  refine ⟨low _ b0, ?_, ?_, ?_⟩
  · exact (high _ b0 0).trans (low _ b1)
  · exact (high _ b0 8).trans ((high _ b1 0).trans (low _ b2))
  · exact (high _ b0 16).trans ((high _ b1 8).trans ((high b3 b2 0).trans BitVec.extractLsb'_eq_self))

/-- Appending the lanes one by one, from lane 3 down, collects the word. -/
theorem wordOfLanes_lane (w : Word) : wordOfLanes (lane w 0) (lane w 1) (lane w 2) (lane w 3) = w := by
  have h2 : lane w 3 ++ lane w 2 = w.extractLsb' 16 16 :=
    BitVec.extractLsb'_append_extractLsb'_eq_extractLsb' rfl
  have h1 : w.extractLsb' 16 16 ++ lane w 1 = w.extractLsb' 8 24 :=
    BitVec.extractLsb'_append_extractLsb'_eq_extractLsb' rfl
  have h0 : w.extractLsb' 8 24 ++ lane w 0 = w.extractLsb' 0 32 :=
    BitVec.extractLsb'_append_extractLsb'_eq_extractLsb' rfl
  rw [wordOfLanes, h2, h1, h0, BitVec.extractLsb'_eq_self]

/-! ### The window (20 R40) -/

theorem windowOffset_eq_none_iff (addr : Nat) :
    windowOffset addr = none ↔ addr < Config.base ∨ Config.base + 0x1F < addr := by
  rw [windowOffset, Config.window]
  split
  · simp only [reduceCtorEq, false_iff]; omega
  · simp only [true_iff]; omega

/-- An address in the window is BASE and the offset it selects, and no other address selects that offset. -/
theorem windowOffset_eq_some_iff (addr : Nat) (off : Offset) :
    windowOffset addr = some off ↔ addr = busAddress off := by
  have hoff := off.isLt
  rw [windowOffset, Config.window, busAddress]
  split
  next hin =>
    rw [Option.some_inj, ← BitVec.toNat_inj, BitVec.toNat_ofNat, Nat.mod_eq_of_lt (by omega)]
    omega
  next hout =>
    simp only [reduceCtorEq, false_iff]; omega

end Sys2Proof.Machine
end

section
/-! SUPPORT. The pending inputs are taken one a step (20 R52, 70 R133): each transaction goes on, a write leaves
the boundary's record alone, a read appends one response, and a run is the inputs taken so far. -/

namespace Sys2Proof.Machine

/-- A bus write goes on and answers the host nothing. -/
theorem busWrite_goes_on (p : Params) (off : Offset) (size : Size) (v : Word) (s : State) :
    ∃ t, busWrite p exec off size v s = .next t ∧ s.sameBoundary t := by
  cases hs : selected off size with
  | none => exact ⟨_, busWrite_none p exec v s hs, rfl, rfl⟩
  | some r =>
    by_cases hr : r = .cmd
    · subst hr
      rw [busWrite_cmd p exec v s hs]
      cases hd : decode v with
      | illegal why => exact ⟨_, writeCmd_illegal exec s hd, rfl, rfl⟩
      | command i =>
        rw [writeCmd_command exec s hd, exec_eq_commandOf]
        exact ⟨_, rfl, (commandOf_inputs _ i s).symm, (commandOf_responses _ i s).symm⟩
    · exact ⟨_, busWrite_reg p exec v s hs hr, (writeReg_inputs p r v s).symm,
        (writeReg_responses p r v s).symm⟩

/-- A bus read answers the host one word. -/
theorem busRead_boundary (p : Params) (off : Offset) (size : Size) (s : State) :
    (busRead p off size s).inputs = s.inputs ∧
      ∃ w, (busRead p off size s).responses = s.responses ++ [w] := by
  cases hs : selected off size with
  | none => rw [busRead_none p s hs]; exact ⟨rfl, _, rfl⟩
  | some r => rw [busRead_reg p s hs]; exact ⟨rfl, _, rfl⟩

/-- A step takes the next admitted input, and answers the host once if it is a read. -/
theorem step_takes_input {s : State} {x : Input} {rest : List Input} (h : s.inputs = x :: rest)
    (hx : ∀ a, x ≠ .foreign a) :
    ∃ t rs, step s = .next t ∧ t.inputs = rest ∧ t.responses = s.responses ++ rs ∧
      rs.length = if x.isRead then 1 else 0 := by
  cases x with
  | foreign a => exact absurd rfl (hx a)
  | reset => exact ⟨_, [], step_of_reset h, rfl, (List.append_nil _).symm, rfl⟩
  | bus a =>
    rw [step_of_bus h]
    cases a with
    | read off size =>
      obtain ⟨hin, w, hw⟩ := busRead_boundary pdasV1 off size { s with inputs := rest }
      exact ⟨_, [w], rfl, hin, hw, rfl⟩
    | write off size v =>
      obtain ⟨t, ht, hin, hresp⟩ := busWrite_goes_on pdasV1 off size v { s with inputs := rest }
      exact ⟨t, [], ht, hin.symm, by rw [← hresp, List.append_nil], rfl⟩

/-- A run of k steps takes the first k inputs, and answers the host once for each read among them. -/
theorem run_takes_inputs (k : Nat) {s : State} (hs : ∀ a, Input.foreign a ∉ s.inputs)
    (hk : k ≤ s.inputs.length) :
    ∃ t rs, core.run k s = .next t ∧ t.inputs = s.inputs.drop k ∧ t.responses = s.responses ++ rs ∧
      rs.length = (s.inputs.take k).countP Input.isRead := by
  induction k generalizing s with
  | zero => exact ⟨s, [], rfl, rfl, (List.append_nil _).symm, rfl⟩
  | succ k ih =>
    cases hin : s.inputs with
    | nil => simp [hin] at hk
    | cons x rest =>
      rw [hin] at hs hk
      obtain ⟨t, rs, hstep, rfl, hresp, hlen⟩ := step_takes_input hin (by rintro a rfl; exact hs a (by simp))
      obtain ⟨u, rs', hrun, hdrop, hresp', hlen'⟩ :=
        ih (fun a ha => hs a (List.mem_cons_of_mem x ha)) (Nat.le_of_succ_le_succ hk)
      refine ⟨u, rs ++ rs', ?_, hdrop, ?_, ?_⟩
      · rw [run_succ_of_next k hstep, hrun]
      · rw [hresp', hresp, List.append_assoc]
      · rw [List.take_succ_cons, List.countP_cons, List.length_append, hlen, hlen', Nat.add_comm]

end Sys2Proof.Machine
end

section
/-! PROOFS. The statements of 20_memory.md. -/

namespace Sys2Proof.Proofs

open Sys2Proof Sys2Proof.Machine

/-- Settles O46: a run takes the inputs one a step, and step k + 1 is a step from where k steps stand. -/
theorem runPerformsEveryPendingInput : Obligations.RunPerformsEveryPendingInput := by
  unfold Obligations.RunPerformsEveryPendingInput
  intro s k hs hk
  obtain ⟨t, rs, hrun, hin, hresp, hlen⟩ := run_takes_inputs k hs hk
  refine ⟨t, hrun, hin, ⟨rs, hresp, hlen⟩, fun a rest hnext => ?_, fun rest hnext => ?_⟩
  · exact (run_succ_eq_step k hrun).trans (step_of_bus (hin.trans hnext))
  · exact (run_succ_eq_step k hrun).trans (step_of_reset (hin.trans hnext))

/-- Settles O32: such an access selects no register, so all that is left is BUS_ERR, bit 2 of STAT. -/
theorem busErrorRaisesBusErrAndDoesNothingElse : Obligations.BusErrorRaisesBusErrAndDoesNothingElse := by
  unfold Obligations.BusErrorRaisesBusErrAndDoesNothingElse
  intro s off size rest hbad
  exact ⟨fun h => step_of_bad_read hbad h, fun v h => step_of_bad_write hbad h⟩

/-- Settles O37: the second step reads what the first one stored. -/
theorem readAfterWriteReturnsTheWrittenBits : Obligations.ReadAfterWriteReturnsTheWrittenBits := by
  unfold Obligations.ReadAfterWriteReturnsTheWrittenBits
  intro s r v rest hr hin
  have hcmd : r ≠ .cmd := by rintro rfl; simp at hr
  refine ⟨_, _, step_of_writeReg hcmd hin, step_of_readReg (writeReg_inputs _ _ _ _), rfl, ?_⟩
  rw [writeReg_responses, readReg_writeReg_same _ _ _ hr]
  rcases hr with rfl | rfl | rfl | rfl
  · rfl
  · rfl
  · rw [definedBits, tsMask_pdasV1]; rfl
  · rfl

/-- Settles O38: a read changes the boundary's record only, and so does a write of what is already stored. -/
theorem readsHaveNoSideEffectAndWritesAreIdempotent :
    Obligations.ReadsHaveNoSideEffectAndWritesAreIdempotent := by
  unfold Obligations.ReadsHaveNoSideEffectAndWritesAreIdempotent
  constructor
  · intro s r rest hin
    exact ⟨_, step_of_readReg hin, sameRegs_withBoundary s _ _⟩
  · intro s r v rest hr hin
    refine ⟨_, _, step_of_writeReg hr hin, step_of_writeReg hr (writeReg_inputs _ _ _ _), ?_⟩
    rw [writeReg_writeReg]
    exact sameRegs_withBoundary _ _ _

/-- Settles O40, by the addresses that select an offset and those that select none. -/
theorem windowSelectsExactlyItsAddresses : Obligations.WindowSelectsExactlyItsAddresses := by
  unfold Obligations.WindowSelectsExactlyItsAddresses
  exact ⟨fun off => (windowOffset_eq_some_iff _ off).mpr rfl, fun addr =>
    ⟨windowOffset_eq_none_iff addr, fun off => (windowOffset_eq_some_iff addr off).mp⟩⟩

/-- Settles O33: each access is one at the offset of its register. NOW has every bit defined in PDAS v1. -/
theorem readWriteRegistersKeepTheirDefinedBits : Obligations.ReadWriteRegistersKeepTheirDefinedBits := by
  unfold Obligations.ReadWriteRegistersKeepTheirDefinedBits
  intro s v rest
  have hnow (w : Word) : w &&& tsMask pdasV1 = w := by rw [tsMask_pdasV1, BitVec.and_allOnes]
  refine ⟨step_of_readReg (r := .cfg), step_of_readReg (r := .frameIn), fun h => ?_,
    step_of_readReg (r := .sample), step_of_writeReg (r := .cfg) (by decide),
    step_of_writeReg (r := .frameIn) (by decide), fun h => ?_, step_of_writeReg (r := .sample) (by decide)⟩
  · rw [step_of_readReg (r := .now) h, readReg, hnow]
  · rw [step_of_writeReg (r := .now) (by decide) h, writeReg, hnow]

/-- Settles O34: a read masks nothing of the 32 bits of LAST_TIME, and a write of it stores nothing. -/
theorem lastTimeIsReadOnly : Obligations.LastTimeIsReadOnly := by
  unfold Obligations.LastTimeIsReadOnly
  intro s v rest
  refine ⟨fun h => ?_, step_of_writeReg (r := .lastTime) (by decide)⟩
  rw [step_of_readReg (r := .lastTime) h, readReg, tsMask_pdasV1, BitVec.and_allOnes]

/-- Settles O35: a write to CMD runs what its word decodes to, and a word of no command decodes to none. -/
theorem cmdReadsZeroAndWritesExecute : Obligations.CmdReadsZeroAndWritesExecute := by
  unfold Obligations.CmdReadsZeroAndWritesExecute
  intro s rest
  refine ⟨step_of_readReg (r := .cmd), fun i h => ?_, fun v hv h => ?_⟩
  · rw [step_of_cmdWrite h, writeCmd_command exec _ (decode_encode i)]
  · obtain ⟨why, hd⟩ := exists_illegal_of_ne_encode hv
    rw [step_of_cmdWrite h, writeCmd_illegal exec _ hd, illegalCommand]

/-- Settles O36: a write to STAT stores `statClear`, and a read masks the register. -/
theorem statIsWriteOneToClear : Obligations.StatIsWriteOneToClear := by
  unfold Obligations.StatIsWriteOneToClear
  exact fun s v rest => ⟨step_of_readReg (r := .stat), step_of_writeReg (r := .stat) (by decide)⟩

/-- Settles O39: a word is its four lanes, and the frame's fields are the bytes it was loaded from. -/
theorem frameLanesAreLittleEndian : Obligations.FrameLanesAreLittleEndian := by
  unfold Obligations.FrameLanesAreLittleEndian
  exact ⟨frame_fields_wordOfLanes, fun w => ⟨wordOfLanes_lane w, fun k _ _ hi => getLsbD_lane w k hi⟩⟩

end Sys2Proof.Proofs
end

section
/-! SUPPORT. What a CMD write runs, by the fields of its word (30 R56). -/

namespace Sys2Proof

theorem decode_eq_command_iff (w : Word) (i : Instr) : decode w = .command i ↔ w = encode i := by
  constructor
  · exact eq_encode_of_decode
  · rintro rfl
    exact decode_encode i

/-- 42 R101: the OP values from 5 on are reserved. -/
theorem decodeOp_of_reserved {op : BitVec 4} (h : 5 ≤ op.toNat) : decodeOp op = .illegal .reservedOp := by
  revert op; decide

/-- With MBZ zero, a word of a given OP decodes as that OP does. -/
theorem decode_of_fields {w : Word} {op : BitVec 4} (hmbz : mbzField w = 0) (hop : opField w = op) :
    decode w = decodeOp op := by
  rw [decode_of_mbz_zero hmbz, hop]

end Sys2Proof

namespace Sys2Proof.Machine

section CmdWrite
variable {s : State} {v : Word} {rest : List Input}

theorem step_of_cmdWrite_command {i : Instr} (hdecode : decode v = .command i)
    (h : s.inputs = .bus (.write 0x0C .four v) :: rest) : step s = exec i { s with inputs := rest } := by
  rw [step_of_cmdWrite h, writeCmd_command exec _ hdecode]

/-- ILLEGAL_CMD is bit 0 of STAT. -/
theorem step_of_cmdWrite_illegal {why : Illegal} (hdecode : decode v = .illegal why)
    (h : s.inputs = .bus (.write 0x0C .four v) :: rest) :
    step s = .next { s with inputs := rest, stat := s.stat ||| 1 } := by
  rw [step_of_cmdWrite h, writeCmd_illegal exec _ hdecode]
  rfl

end CmdWrite

end Sys2Proof.Machine
end

section
/-! SUPPORT. The words the pseudo-instructions compute (30 R67): each is its fields appended, so its value is
a sum and a field is read by skipping the fields below it. -/

namespace Sys2Proof.Machine

theorem toNat_append_eq_add {m n : Nat} (x : BitVec m) (y : BitVec n) :
    (x ++ y).toNat = x.toNat * 2 ^ n + y.toNat := by
  rw [BitVec.toNat_append, ← Nat.shiftLeft_add_eq_or_of_lt y.isLt, Nat.shiftLeft_eq]

/-! ### SETCFG -/

theorem cfgWord_eq_append (en : BitVec 1) (t : Byte) (f : BitVec 16) :
    cfgWord en t f = f ++ t ++ 0#7 ++ en := by
  have h := BitVec.setWidth_append_append_append_eq_shiftLeft_setWidth_or
    (b := f) (b' := t) (b'' := 0#7) (b''' := en) (w'''' := 32)
  rw [← BitVec.setWidth_eq (f ++ t ++ 0#7 ++ en), h]
  simp [cfgWord]

theorem cfgWord_toNat (en : BitVec 1) (t : Byte) (f : BitVec 16) :
    (cfgWord en t f).toNat = f.toNat * 2 ^ 16 + t.toNat * 2 ^ 8 + en.toNat := by
  rw [cfgWord_eq_append, toNat_append_eq_add, toNat_append_eq_add, toNat_append_eq_add, BitVec.toNat_zero]
  omega

theorem accelEn_cfgWord (en : BitVec 1) (t : Byte) (f : BitVec 16) :
    accelEn (cfgWord en t f) = (en == 1) := by
  rw [accelEn, cfgWord_eq_append, BitVec.getLsbD_append, if_pos (by decide)]
  revert en; decide

theorem threshold_cfgWord (en : BitVec 1) (t : Byte) (f : BitVec 16) :
    threshold (cfgWord en t f) = t.toNat := by
  rw [threshold, cfgWord_eq_append, BitVec.extractLsb'_append_eq_of_le (by decide),
    BitVec.extractLsb'_append_eq_of_le (by decide), BitVec.extractLsb'_append_eq_right]

theorem factor_cfgWord (en : BitVec 1) (t : Byte) (f : BitVec 16) :
    factor (cfgWord en t f) = f.toNat := by
  rw [factor, cfgWord_eq_append, BitVec.extractLsb'_append_eq_of_le (by decide),
    BitVec.extractLsb'_append_eq_of_le (by decide), BitVec.extractLsb'_append_eq_left]

/-! ### FRAME -/

/-- The word of FRAME is the little-endian load of its four bytes (20 R48). -/
theorem frameWord_eq_wordOfLanes (s p0 p1 p2 : Byte) : frameWord s p0 p1 p2 = wordOfLanes s p0 p1 p2 := by
  have h := BitVec.setWidth_append_append_append_eq_shiftLeft_setWidth_or
    (b := p2) (b' := p1) (b'' := p0) (b''' := s) (w'''' := 32)
  rw [wordOfLanes, ← BitVec.setWidth_eq (p2 ++ p1 ++ p0 ++ s), h]
  rfl

theorem frameWord_toNat (s p0 p1 p2 : Byte) : (frameWord s p0 p1 p2).toNat =
    p2.toNat * 2 ^ 24 + p1.toNat * 2 ^ 16 + p0.toNat * 2 ^ 8 + s.toNat := by
  rw [frameWord_eq_wordOfLanes, wordOfLanes, toNat_append_eq_add, toNat_append_eq_add,
    toNat_append_eq_add]
  omega

/-! ### SETDELTA -/

/-- 00 R10: `u8(v)` is `v mod 256`. -/
theorem u8_toNat (v : Int) : ((u8 v).toNat : Int) = v % 256 := by
  rw [u8, BitVec.toNat_ofInt]
  omega

theorem deltaWord_eq_append (x y : Int) : deltaWord x y = 0#16 ++ u8 y ++ u8 x := by
  have h := BitVec.setWidth_append_append_eq_shiftLeft_setWidth_or
    (b := 0#16) (b' := u8 y) (b'' := u8 x) (w''' := 32)
  rw [← BitVec.setWidth_eq (0#16 ++ u8 y ++ u8 x), h]
  simp [deltaWord]

theorem deltaWord_toNat (x y : Int) : ((deltaWord x y).toNat : Int) = y % 256 * 2 ^ 8 + x % 256 := by
  rw [deltaWord_eq_append, toNat_append_eq_add, toNat_append_eq_add, ← u8_toNat x, ← u8_toNat y]
  simp

theorem dx_deltaWord (x y : Int) : dx (deltaWord x y) = u8 x := by
  rw [dx, deltaWord_eq_append, BitVec.extractLsb'_append_eq_right]

theorem dy_deltaWord (x y : Int) : dy (deltaWord x y) = u8 y := by
  rw [dy, deltaWord_eq_append, BitVec.extractLsb'_append_eq_of_le (by decide),
    BitVec.extractLsb'_append_eq_right]

theorem buttons_deltaWord (x y : Int) : buttons (deltaWord x y) = 0 := by
  rw [buttons, deltaWord_eq_append, BitVec.extractLsb'_append_eq_of_le (by decide),
    BitVec.extractLsb'_append_eq_of_le (by decide)]
  rfl

theorem valid_deltaWord (x y : Int) : valid (deltaWord x y) = false := by
  rw [valid, deltaWord_eq_append, BitVec.getLsbD_append, if_neg (by decide), BitVec.getLsbD_append,
    if_neg (by decide), BitVec.getLsbD_zero]

end Sys2Proof.Machine
end

section
/-! SUPPORT. The host's step (30 R66): a line without a transaction leaves the machine alone, and only a GOTO
can miss a label, one the script does not have. -/

namespace Sys2Proof.Machine

/-! ### One line -/

/-- A branch that the host completes only moves the host. -/
theorem state_of_ifGoto_next {d e : Driver} {s t : State} {c : HostCond} {l : String}
    (h : lineStep d s (.ifGoto c l) = .next e t) : t = s := by
  rw [lineStep] at h
  split at h
  case h_1 => cases h
  case h_2 => exact (Progress.next.inj h).2.symm
  case h_3 =>
    split at h
    · cases h
    · exact (Progress.next.inj h).2.symm

/-- A branch that misses a label has it as its target, and the script has no such label. -/
theorem labelPos_of_ifGoto_noLabel {d : Driver} {s : State} {c : HostCond} {l l' : String}
    (h : lineStep d s (.ifGoto c l') = .noLabel l) : l' = l ∧ d.labelPos l' = none := by
  rw [lineStep] at h
  split at h
  case h_1 => cases h
  case h_2 => cases h
  case h_3 =>
    split at h
    next hnone => exact ⟨Progress.noLabel.inj h, hnone⟩
    next => cases h

/-- A step of the machine misses no label. -/
theorem ofStep_ne_noLabel (f : State → Driver) (o : Host.Outcome State Fault Refusal) (l : String) :
    Progress.ofStep f o ≠ .noLabel l := by
  cases o with
  | next s => nofun
  | fault r => nofun
  | refused r => nofun

theorem ifGoto_of_lineStep_noLabel {d : Driver} {s : State} {line : Line} {l : String}
    (h : lineStep d s line = .noLabel l) : (∃ c, line = .ifGoto c l) ∧ d.labelPos l = none := by
  cases line with
  | wr r v => exact absurd h (ofStep_ne_noLabel _ _ l)
  | rd r n => rw [lineStep] at h; exact absurd h (ofStep_ne_noLabel _ _ l)
  | access a => exact absurd h (ofStep_ne_noLabel _ _ l)
  | label l' => cases h
  | comment text => cases h
  | ifGoto c l' =>
    obtain ⟨rfl, hnone⟩ := labelPos_of_ifGoto_noLabel h
    exact ⟨⟨c, rfl⟩, hnone⟩

/-- A host that misses a label stands at a GOTO of its script that names it. -/
theorem ifGoto_of_driverStep_noLabel {d : Driver} {s : State} {l : String}
    (h : driverStep d s = .noLabel l) : (∃ c, .ifGoto c l ∈ d.script) ∧ d.labelPos l = none := by
  rw [driverStep] at h
  split at h
  · split at h
    case h_1 => cases h
    case h_2 line hline =>
      obtain ⟨⟨c, rfl⟩, hnone⟩ := ifGoto_of_lineStep_noLabel h
      exact ⟨⟨c, List.mem_of_getElem? hline⟩, hnone⟩
  · exact absurd h (ofStep_ne_noLabel _ _ l)

/-! ### The labels of a script -/

theorem mem_scriptLabels {ls : List Line} {l : String} : l ∈ scriptLabels ls ↔ .label l ∈ ls := by
  rw [scriptLabels, List.mem_filterMap]
  constructor
  · rintro ⟨line, hmem, hline⟩
    cases line with
    | label l' => exact Option.some.inj hline ▸ hmem
    | wr r v => cases hline
    | rd r n => cases hline
    | ifGoto c l' => cases hline
    | comment text => cases hline
    | access a => cases hline
  · intro hmem
    exact ⟨.label l, hmem, rfl⟩

theorem label_mem_of_targetsDefined {ls : List Line} {c : HostCond} {l : String}
    (h : targetsDefined ls = true) (hgoto : .ifGoto c l ∈ ls) : .label l ∈ ls := by
  have hl : (scriptLabels ls).contains l = true := List.all_eq_true.mp h _ hgoto
  exact mem_scriptLabels.mp (List.contains_iff_mem.mp hl)

theorem labelPos_eq_none_iff {d : Driver} {l : String} : d.labelPos l = none ↔ .label l ∉ d.script := by
  rw [Driver.labelPos, List.findIdx?_eq_none_iff]
  constructor
  · intro h hmem
    simpa using h _ hmem
  · rintro h line hmem
    exact beq_eq_false_iff_ne.mpr (by rintro rfl; exact h hmem)

theorem targetsDefined_of_scriptWf {ls : List Line} (h : scriptWf ls = true) : targetsDefined ls = true := by
  simp only [scriptWf, Bool.and_eq_true] at h
  obtain ⟨⟨-, htargets⟩, -⟩ := h
  exact htargets

end Sys2Proof.Machine
end

section
/-! PROOFS. The statements of 30_encoding.md. -/

namespace Sys2Proof.Proofs

open Sys2Proof Sys2Proof.Machine

/-- Settles O2: a word that decodes to a command is its word, and that word decodes back. -/
theorem decodeAcceptsOnlyItsEncoding : Obligations.DecodeAcceptsOnlyItsEncoding := by
  unfold Obligations.DecodeAcceptsOnlyItsEncoding
  exact decode_eq_command_iff

/-- Settles O5: the fields of the word written say what it decodes to, and the step runs that. -/
theorem cmdWriteDispatchesOnMbzThenOp : Obligations.CmdWriteDispatchesOnMbzThenOp := by
  unfold Obligations.CmdWriteDispatchesOnMbzThenOp
  intro s v rest hin
  refine ⟨fun hmbz => step_of_cmdWrite_illegal (decode_of_mbz hmbz) hin, fun hmbz => ?_⟩
  have runs {op : BitVec 4} {i : Instr} (hop : decodeOp op = .command i) (hv : v.extractLsb' 0 4 = op) :
      step s = exec i { s with inputs := rest } :=
    step_of_cmdWrite_command ((decode_of_fields hmbz hv).trans hop) hin
  exact ⟨runs rfl, runs rfl, runs rfl, runs rfl, runs rfl, fun hreserved =>
    step_of_cmdWrite_illegal ((decode_of_mbz_zero hmbz).trans (decodeOp_of_reserved hreserved)) hin⟩

/-- Settles O56: the fixed words are the table's, and a computed word is its fields appended. -/
theorem pseudoInstructionsExpandAsTheTableSays : Obligations.PseudoInstructionsExpandAsTheTableSays := by
  unfold Obligations.PseudoInstructionsExpandAsTheTableSays
  refine ⟨rfl, rfl, rfl, rfl, rfl, rfl, fun _ => rfl, fun en t f => ?_, fun s p0 p1 p2 => ?_,
    fun x y hx hx' hy hy' => ?_⟩
  · exact ⟨cfgWord en t f, rfl, cfgWord_toNat en t f, accelEn_cfgWord en t f, threshold_cfgWord en t f,
      factor_cfgWord en t f⟩
  · refine ⟨frameWord s p0 p1 p2, rfl, frameWord_toNat s p0 p1 p2, ?_⟩
    rw [frameWord_eq_wordOfLanes]
    exact frame_fields_wordOfLanes s p0 p1 p2
  · refine ⟨deltaWord x y, rfl, deltaWord_toNat x y, ?_, ?_, buttons_deltaWord x y, valid_deltaWord x y⟩
    · rw [dx_deltaWord, s8_u8 hx hx']
    · rw [dy_deltaWord, s8_u8 hy hy']

/-- Settles O58: a label is missed only at a GOTO of the script, and a well-formed script has the label of
each of its GOTOs. -/
theorem wellFormedScriptFindsItsLabels : Obligations.WellFormedScriptFindsItsLabels := by
  unfold Obligations.WellFormedScriptFindsItsLabels
  intro d s l hwf hmissed
  obtain ⟨⟨c, hgoto⟩, hnone⟩ := ifGoto_of_driverStep_noLabel hmissed
  exact labelPos_eq_none_iff.mp hnone (label_mem_of_targetsDefined (targetsDefined_of_scriptWf hwf) hgoto)

/-- Settles O1, by the round trip of each command. -/
theorem encodeThenDecodeGivesCommand : Obligations.EncodeThenDecodeGivesCommand := by
  unfold Obligations.EncodeThenDecodeGivesCommand
  exact fun i _ => decode_encode i

/-- Settles O4: five of the words are those of the commands, one has a reserved OP, one a nonzero MBZ. -/
theorem writtenOutWordsDecode : Obligations.WrittenOutWordsDecode := by
  unfold Obligations.WrittenOutWordsDecode
  exact ⟨decode_encode .nop, decode_encode .decode, decode_encode .shapeX, decode_encode .shapeY,
    decode_encode .shapeXY, (decode_of_mbz_zero (by decide)).trans (decodeOp_of_reserved (by decide)),
    decode_of_mbz (by decide)⟩

/-- Settles O57: of the lines without a transaction a label and a comment only move on, and so does a
branch. -/
theorem hostOnlyLinesLeaveTheMachineAlone : Obligations.HostOnlyLinesLeaveTheMachineAlone := by
  unfold Obligations.HostOnlyLinesLeaveTheMachineAlone
  intro d e s t line hnone h
  cases line with
  | wr r v => cases hnone
  | rd r n => cases hnone
  | access a => cases hnone
  | label l => exact (Progress.next.inj h).2.symm
  | comment text => exact (Progress.next.inj h).2.symm
  | ifGoto c l => exact state_of_ifGoto_next h

end Sys2Proof.Proofs
end

section
/-! SUPPORT. The packet decoder (40 R70 to R73): which frames are skipped, what sign reconstruction does to
each bit, and the fields of the SAMPLE a DECODE leaves. -/

namespace Sys2Proof.Machine

/-! ### The skip test (40 R71) -/

theorem frameSkipped_iff (p : Params) (frame : Word) : frameSkipped p frame = true ↔
    frameStatus frame = p.sentinel ∨ (frameStatus frame).getLsbD p.drBit = false := by
  simp [frameSkipped]

/-- Bit i of the status byte is bit i of FRAME_IN: STATUS is its lane 0. -/
theorem getLsbD_frameStatus (frame : Word) {i : Nat} (hi : i < 8) :
    (frameStatus frame).getLsbD i = frame.getLsbD i :=
  (getLsbD_lane frame 0 hi).trans (by simp)

/-- Bit i of P0 is bit 8 + i of FRAME_IN: P0 is its lane 1. -/
theorem getLsbD_frameP0 (frame : Word) {i : Nat} (hi : i < 8) :
    (frameP0 frame).getLsbD i = frame.getLsbD (8 + i) :=
  getLsbD_lane frame 1 hi

/-- PDAS v1 skips on the status 0xFF and on bit 2 clear. -/
theorem frameSkipped_pdasV1_iff (frame : Word) : frameSkipped pdasV1 frame = true ↔
    frame.extractLsb' 0 8 = 0xFF#8 ∨ frame.getLsbD 2 = false := by
  rw [frameSkipped_iff, ← getLsbD_frameStatus frame (by decide)]
  rfl

/-! ### Sign reconstruction and the button field (40 R72, R73) -/

/-- The sign bit shifted to bit 7 is the byte 0x80 or 0. -/
theorem reconstruct_eq_or (sign : Bool) (m : Byte) :
    reconstruct sign m = m ||| (if sign then 0x80 else 0) := by
  cases sign <;> rfl

theorem getLsbD_reconstruct_of_lt (sign : Bool) (m : Byte) {k : Nat} (hk : k < 7) :
    (reconstruct sign m).getLsbD k = m.getLsbD k := by
  simp [reconstruct, hk]

theorem getLsbD_reconstruct_seven (sign : Bool) (m : Byte) :
    (reconstruct sign m).getLsbD 7 = (m.getLsbD 7 || sign) := by
  simp [reconstruct]

theorem getLsbD_frameButtons (p : Params) (frame : Word) {k : Nat} (hk : k < 3) :
    (frameButtons p frame).getLsbD k = (frameP0 frame).getLsbD (p.btnLo + k) := by
  simp [frameButtons, hk]

/-- In PDAS v1 the button field is bits 10:8 of FRAME_IN. -/
theorem frameButtons_pdasV1 (frame : Word) : frameButtons pdasV1 frame = frame.extractLsb' 8 3 := by
  ext k hk
  have hbit : pdasV1.btnLo + k < 8 := by change 0 + k < 8; omega
  rw [← BitVec.getLsbD_eq_getElem, getLsbD_frameButtons _ _ hk, getLsbD_frameP0 _ hbit]
  simp [pdasV1]

/-! ### SAMPLE after a DECODE (40 R70) -/

/-- Clearing VALID clears bit 24. -/
theorem setValid_false (w : Word) : setValid w false = w &&& ~~~0x01000000#32 := by
  have hbit : ∀ i < 32, (0x01000000#32).getLsbD i = decide (i = 24) := by decide
  apply BitVec.eq_of_getLsbD_eq
  intro i hi
  rw [getLsbD_setValid, BitVec.getLsbD_and, BitVec.getLsbD_not, hbit i hi]
  by_cases h : i = 24 <;> simp [h, hi]

theorem decodedSample_of_skipped {p : Params} {frame : Word} (sample : Word)
    (h : frameSkipped p frame = true) : decodedSample p frame sample = setValid sample false := by
  rw [decodedSample, if_pos h]

/-- The four fields of a produced sample: each was written by its own field write, and no later one touched
it. -/
theorem decodedSample_fields {p : Params} {frame : Word} (sample : Word) (h : ¬ frameSkipped p frame = true) :
    dx (decodedSample p frame sample) = frameDx p frame ∧
    dy (decodedSample p frame sample) = frameDy p frame ∧
    buttons (decodedSample p frame sample) = frameButtons p frame ∧
    valid (decodedSample p frame sample) = true := by
  rw [decodedSample, if_neg h]
  simp

end Sys2Proof.Machine
end

section
/-! PROOFS. The statements of 40_packet_decoder.md. -/

namespace Sys2Proof.Proofs

open Sys2Proof Sys2Proof.Machine

/-- Settles O9: both causes are the skip test, and a skipped frame only clears VALID, which is bit 24. -/
theorem decodeSkipOnlyClearsValid : Obligations.DecodeSkipOnlyClearsValid := by
  unfold Obligations.DecodeSkipOnlyClearsValid
  intro s hskip
  have hsample : decodedSample pdasV1 s.frameIn s.sample = s.sample &&& ~~~0x01000000#32 := by
    rw [decodedSample_of_skipped _ ((frameSkipped_pdasV1_iff _).mpr hskip), setValid_false]
  rw [← hsample]
  rfl

/-- Settles O10: the fields of the produced sample, with the v1 sign bits at bits 12 and 13 of FRAME_IN. -/
theorem decodeProducesTheSample : Obligations.DecodeProducesTheSample := by
  unfold Obligations.DecodeProducesTheSample
  intro s hsentinel hready
  have hproduced : ¬ frameSkipped pdasV1 s.frameIn = true := by
    simp [frameSkipped_pdasV1_iff, hsentinel, hready]
  obtain ⟨hdx, hdy, hbuttons, hvalid⟩ := decodedSample_fields s.sample hproduced
  refine ⟨_, rfl, hbuttons.trans (frameButtons_pdasV1 _), hdx.trans ?_, hdy.trans ?_, hvalid,
    decodedSample_reserved pdasV1 s.frameIn s.sample⟩
  · rw [← getLsbD_frameP0 s.frameIn (i := 4) (by decide)]
    exact reconstruct_eq_or _ _
  · rw [← getLsbD_frameP0 s.frameIn (i := 5) (by decide)]
    exact reconstruct_eq_or _ _

/-- Settles O11: the fields of the produced sample read bit by bit, whatever the parameters are. -/
theorem decodeForcesTheSignBitForEveryBuild : Obligations.DecodeForcesTheSignBitForEveryBuild := by
  unfold Obligations.DecodeForcesTheSignBitForEveryBuild
  intro b s hsentinel hready p0 p1 p2
  have hproduced : ¬ frameSkipped b.params s.frameIn = true := by
    rw [frameSkipped_iff]
    exact not_or.mpr ⟨hsentinel, ne_false_of_eq_true hready⟩
  obtain ⟨hdx, hdy, hbuttons, hvalid⟩ := decodedSample_fields s.sample hproduced
  refine ⟨decodedSample b.params s.frameIn s.sample, rfl, ?_⟩
  rw [hdx, hdy, hbuttons]
  exact ⟨fun k hk => ⟨getLsbD_reconstruct_of_lt _ p1 hk, getLsbD_reconstruct_of_lt _ p2 hk⟩,
    getLsbD_reconstruct_seven _ p1, getLsbD_reconstruct_seven _ p2, s8_eq_toInt _, s8_eq_toInt _,
    fun k hk => getLsbD_frameButtons b.params s.frameIn hk,
    fun hv1 => congrArg (frameButtons · s.frameIn) hv1, hvalid⟩

end Sys2Proof.Proofs
end

section
/-! SUPPORT. The shaper's time and curve (41 R86, R87, R94): the elapsed time as a residue, and the integer
curve as the rational one, rounded. -/

namespace Sys2Proof.Machine

/-! ### The elapsed time (41 R94) -/

theorem elapsedTime_cast (p : Params) (now last : Word) :
    (elapsedTime p now last : Int) = ((now.toNat : Int) - (last.toNat : Int)) % (2 : Int) ^ p.tsW := by
  rw [elapsedTime, Nat.cast_pow, Nat.cast_ofNat]
  exact Int.toNat_of_nonneg (Int.emod_nonneg _ (by positivity))

theorem elapsedTime_lt (p : Params) (now last : Word) : elapsedTime p now last < 2 ^ p.tsW := by
  zify
  rw [elapsedTime_cast]
  exact Int.emod_lt_of_pos _ (by positivity)

/-- A number below `2^TS_W` that is NOW - LAST_TIME up to a multiple of it is the elapsed time. -/
theorem elapsedTime_eq_of_modEq {p : Params} {now last : Word} {n : Nat} (hn : n < 2 ^ p.tsW)
    (h : (now.toNat : Int) - (last.toNat : Int) ≡ n [ZMOD 2 ^ p.tsW]) : elapsedTime p now last = n := by
  zify at hn ⊢
  rw [elapsedTime_cast, h, Int.emod_eq_of_lt (Int.natCast_nonneg n) hn]

/-- The elapsed time of PDAS v1 in the words of the rules. -/
theorem elapsedTime_pdasV1 (s : State) : (elapsedTime pdasV1 s.now s.lastTime : Int) = elapsedV1 s :=
  elapsedTime_cast pdasV1 s.now s.lastTime

/-- The second axis of SHAPE_XY: LAST_TIME stands at NOW already (41 R92). -/
@[simp] theorem elapsedTime_self (p : Params) (now : Word) : elapsedTime p now now = 0 := by
  simp [elapsedTime]

/-! ### The curve (41 R86, R87) -/

theorem curveQ_factor_zero (frac : Nat) (d : Int) (t : Nat) : curveQ frac d t 0 = 0 := by
  simp [curveQ]

@[simp] theorem roundHalfAway_zero : roundHalfAway 0 = 0 := by
  simp [roundHalfAway]

/-- The division of naturals in the model's curve is the floor of 41 R87. -/
theorem exactCurve_eq_floor (frac : Nat) (d : Int) (t f : Nat) : exactCurve frac d t f = d.sign *
    ⌊((2 * (|(d : ℚ)| * t * f) + (2 : ℚ) ^ frac * ((t : ℚ) + |(d : ℚ)|)) /
      (2 * ((2 : ℚ) ^ frac * ((t : ℚ) + |(d : ℚ)|))))⌋ := by
  rw [exactCurve, Int.natCast_div, ← Rat.floor_natCast_div_natCast]
  push_cast [Nat.cast_natAbs]
  rfl

section Curve
variable (frac : Nat) (d : Int) {t : Nat} (f : Nat) (ht : 1 ≤ t)
include ht

theorem curveDivisor_pos : 0 < (2 : ℚ) ^ frac * ((t : ℚ) + |(d : ℚ)|) := by
  have : (0 : ℚ) < t := Nat.cast_pos.mpr ht
  positivity

theorem curveQ_eq_div :
    curveQ frac d t f = ((d : ℚ) * t * f) / ((2 : ℚ) ^ frac * ((t : ℚ) + |(d : ℚ)|)) := by
  have : (0 : ℚ) < t := Nat.cast_pos.mpr ht
  rw [curveQ]
  field_simp

theorem abs_curveQ :
    |curveQ frac d t f| = (|(d : ℚ)| * t * f) / ((2 : ℚ) ^ frac * ((t : ℚ) + |(d : ℚ)|)) := by
  rw [curveQ_eq_div frac d f ht, abs_div, abs_of_pos (curveDivisor_pos frac d ht), abs_mul, abs_mul,
    Nat.abs_cast, Nat.abs_cast]

/-- With N = 0 the quotient of 41 R87 is `D / (2D)`. -/
theorem exactCurve_factor_zero : exactCurve frac d t 0 = 0 := by
  have hdivisor : 0 < 2 ^ frac * (t + d.natAbs) := by positivity
  simp only [exactCurve, mul_zero, zero_add]
  rw [Nat.div_eq_of_lt (by omega), Nat.cast_zero, mul_zero]

/-- q is d times a positive number. -/
theorem sign_curveQ (hf : 0 < f) : (SignType.sign (curveQ frac d t f) : Int) = d.sign := by
  have hgain : 0 < (t : ℚ) * f / ((2 : ℚ) ^ frac * ((t : ℚ) + |(d : ℚ)|)) := by
    have := curveDivisor_pos frac d ht
    have : (0 : ℚ) < t := Nat.cast_pos.mpr ht
    have : (0 : ℚ) < f := Nat.cast_pos.mpr hf
    positivity
  rw [curveQ_eq_div frac d f ht, mul_assoc, mul_div_assoc, sign_mul, sign_pos hgain, mul_one,
    sign_intCast, Int.sign_eq_sign]

/-- `(2N + D) / (2D)` is `abs(q) + 1/2`. At factor 0, where the signs of d and q differ, both values are 0. -/
theorem exactCurve_eq_roundHalfAway : exactCurve frac d t f = roundHalfAway (curveQ frac d t f) := by
  rcases Nat.eq_zero_or_pos f with rfl | hf
  · rw [exactCurve_factor_zero frac d ht, curveQ_factor_zero, roundHalfAway_zero]
  · have hdivisor := curveDivisor_pos frac d ht
    rw [roundHalfAway, sign_curveQ frac d f ht hf, exactCurve_eq_floor, abs_curveQ frac d f ht, add_div,
      mul_div_mul_left _ _ two_ne_zero, div_mul_cancel_right₀ hdivisor.ne', one_div]

end Curve

end Sys2Proof.Machine
end

section
/-! SUPPORT. What a SHAPE command does, all of it: its axis function by branches (41 R83 to R88), its refusal
(41 R81), the bits of SAMPLE it writes, and the fields it does not know of (41 R93). -/

namespace Sys2Proof.Machine

/-! ### The refusal check (41 R81) -/

/-- The refusal check on the bits of CFG (41 R81). -/
theorem shapeRefused_iff_bits (cfg : Word) :
    shapeRefused cfg = true ↔ cfg.getLsbD 0 = true ∧ cfg.extractLsb' 8 8 = 0#8 := by
  rw [shapeRefused_iff, ← BitVec.toNat_inj]
  rfl

/-- A command that is not refused has a threshold to divide by where it is enabled. -/
theorem one_le_threshold_of_not_refused {cfg : Word} (h : ¬ shapeRefused cfg = true)
    (hen : accelEn cfg = true) : 1 ≤ threshold cfg :=
  Nat.one_le_iff_ne_zero.mpr fun hzero => h ((shapeRefused_iff cfg).mpr ⟨hen, hzero⟩)

/-! ### One axis evaluation (41 R80) -/

section AxisValue
variable (b : Build) {cfg : Word} {elapsed : Nat} (d8 : Byte)

/-- 41 R83 to R85: the three branches that return the delta. -/
theorem shapeValue_passes (h : accelEn cfg = false ∨ |s8 d8| < threshold cfg ∨
    b.params.staleLimit < elapsed) : shapeValue b cfg elapsed d8 = (d8, false) := by
  rw [Int.abs_eq_natAbs, Nat.cast_lt] at h
  rw [shapeValue]
  split
  · rfl
  next hen =>
    split
    · rfl
    next hreached =>
      rcases h with h | h | h
      · exact absurd h hen
      · exact absurd h hreached
      · exact if_pos h

/-- 41 R86 to R88: the remaining branch narrows the curve's value. -/
theorem shapeValue_curve (hen : accelEn cfg = true) (hreached : (threshold cfg : Int) ≤ |s8 d8|)
    (hfresh : elapsed ≤ b.params.staleLimit) : shapeValue b cfg elapsed d8 =
      narrow b.params.ovfMode (b.curve (s8 d8) (threshold cfg) (factor cfg)) := by
  rw [Int.abs_eq_natAbs, Nat.cast_le] at hreached
  rw [shapeValue, if_neg (ne_false_of_eq_true hen), if_neg hreached.not_gt, if_neg hfresh.not_gt]

end AxisValue

theorem narrow_wrap_of_overflow {r : Int} (h : r < -128 ∨ 127 < r) : narrow .wrap r = (u8 r, true) := by
  unfold narrow; rw [if_neg (by omega)]

/-- SAT is bit 3 of STAT. -/
theorem shapeAxis_eq (b : Build) (d8 : Byte) (s : State) : shapeAxis b d8 s =
    ((shapeValue b s.cfg (elapsedTime b.params s.now s.lastTime) d8).1,
      { s with
        lastTime := s.now
        stat := if (shapeValue b s.cfg (elapsedTime b.params s.now s.lastTime) d8).2 then s.stat ||| 8
          else s.stat }) :=
  Prod.ext rfl (shapeAxis_state b d8 s)

theorem shapeAxis_of_value {b : Build} {d8 r8 : Byte} {sat : Bool} {s : State}
    (h : shapeValue b s.cfg (elapsedTime b.params s.now s.lastTime) d8 = (r8, sat)) : shapeAxis b d8 s =
      (r8, { s with lastTime := s.now, stat := if sat then s.stat ||| 8 else s.stat }) := by
  rw [shapeAxis_eq, h]

/-- Where the command is not refused, the axis function of PDAS v1 meets the axis specification. -/
theorem axisSpec_shapeValue {cfg : Word} (elapsed : Nat) (d8 : Byte) (h : ¬ shapeRefused cfg = true) :
    axisSpec cfg elapsed d8 (shapeValue buildV1 cfg elapsed d8).1 (shapeValue buildV1 cfg elapsed d8).2 := by
  constructor
  · intro hpass
    rw [shapeValue_passes buildV1 d8 (hpass.imp_right (Or.imp_right Int.ofNat_lt.mp))]
    exact ⟨rfl, rfl⟩
  · intro hen hreached hfresh
    rw [shapeValue_curve buildV1 d8 hen hreached (Int.ofNat_le.mp hfresh), buildV1_curve,
      exactCurve_eq_roundHalfAway _ _ _ (one_le_threshold_of_not_refused h hen)]
    refine ⟨fun hge hle => ?_, fun hgt => ?_, fun hlt => ?_⟩
    · rw [narrow_of_fits _ hge hle]
      exact ⟨s8_u8 hge hle, rfl⟩
    · rw [show buildV1.params.ovfMode = .sat from rfl, narrow_sat_of_gt hgt]
      exact ⟨s8_u8 (by decide) (by decide), rfl⟩
    · rw [show buildV1.params.ovfMode = .sat from rfl, narrow_sat_of_lt hlt]
      exact ⟨s8_u8 (by decide) (by decide), rfl⟩

/-! ### The commands (41 R90 to R92) -/

theorem shapeDx_eq (b : Build) (s : State) :
    shapeDx b s = { s with
      sample := setDx s.sample
        (shapeValue b s.cfg (elapsedTime b.params s.now s.lastTime) (dx s.sample)).1
      lastTime := s.now
      stat := if (shapeValue b s.cfg (elapsedTime b.params s.now s.lastTime) (dx s.sample)).2 then
        s.stat ||| 8 else s.stat } := by
  rw [shapeDx, shapeAxis_eq]

theorem shapeDy_eq (b : Build) (s : State) :
    shapeDy b s = { s with
      sample := setDy s.sample
        (shapeValue b s.cfg (elapsedTime b.params s.now s.lastTime) (dy s.sample)).1
      lastTime := s.now
      stat := if (shapeValue b s.cfg (elapsedTime b.params s.now s.lastTime) (dy s.sample)).2 then
        s.stat ||| 8 else s.stat } := by
  rw [shapeDy, shapeAxis_eq]

/-- Raising SAT for one axis and then for the other is raising it once. -/
theorem sat_of_either_axis (w : Word) (x y : Bool) :
    (if y then (if x then w ||| 8 else w) ||| 8 else if x then w ||| 8 else w) =
      if x || y then w ||| 8 else w := by
  cases y with
  | false => simp
  | true => cases x <;> simp [BitVec.or_assoc]

/-- X sees the elapsed time and Y sees 0; SAT is sticky, so either axis leaves it raised (41 R92). -/
theorem shapeDy_shapeDx_eq (b : Build) (s : State) :
    shapeDy b (shapeDx b s) = { s with
      sample := setDy (setDx s.sample
        (shapeValue b s.cfg (elapsedTime b.params s.now s.lastTime) (dx s.sample)).1)
        (shapeValue b s.cfg 0 (dy s.sample)).1
      lastTime := s.now
      stat := if (shapeValue b s.cfg (elapsedTime b.params s.now s.lastTime) (dx s.sample)).2 ||
          (shapeValue b s.cfg 0 (dy s.sample)).2 then s.stat ||| 8 else s.stat } := by
  rw [shapeDy_eq, shapeDx_eq]
  simp only [dy_setDx, elapsedTime_self, sat_of_either_axis]

section Accepted
variable (b : Build) {s : State} (h : ¬ shapeRefused s.cfg = true)
include h

theorem commandOf_shapeX_of_accepted : commandOf b .shapeX s = shapeDx b s := if_neg h
theorem commandOf_shapeY_of_accepted : commandOf b .shapeY s = shapeDy b s := if_neg h
theorem commandOf_shapeXY_of_accepted : commandOf b .shapeXY s = shapeDy b (shapeDx b s) := if_neg h

end Accepted

/-- CFG_ERR is bit 1 of STAT. -/
theorem commandOf_of_refused (b : Build) {i : Instr} {s : State} (hi : i.isShape = true)
    (h : shapeRefused s.cfg = true) : commandOf b i s = { s with stat := s.stat ||| 2 } := by
  cases i with
  | nop => cases hi
  | decode => cases hi
  | shapeX => exact if_pos h
  | shapeY => exact if_pos h
  | shapeXY => exact if_pos h

/-- A disabled SHAPE writes each delta back as it was (41 R83). -/
theorem commandOf_of_disabled (b : Build) {i : Instr} {s : State} (hi : i.isShape = true)
    (h : accelEn s.cfg = false) : commandOf b i s = { s with lastTime := s.now } := by
  have haccepted : ¬ shapeRefused s.cfg = true := by simp [shapeRefused_iff, h]
  cases i with
  | nop => cases hi
  | decode => cases hi
  | shapeX =>
    rw [commandOf_shapeX_of_accepted b haccepted, shapeDx_eq]
    simp [shapeValue_disabled, h]
  | shapeY =>
    rw [commandOf_shapeY_of_accepted b haccepted, shapeDy_eq]
    simp [shapeValue_disabled, h]
  | shapeXY =>
    rw [commandOf_shapeXY_of_accepted b haccepted, shapeDy_shapeDx_eq]
    simp [shapeValue_disabled, h]

/-! ### The bits a delta write leaves (10 R29) -/

theorem setDx_frame (w : Word) (b : Byte) : setDx w b &&& ~~~0x000000FF#32 = w &&& ~~~0x000000FF#32 :=
  and_not_congr fun i hi => by
    have hfield : ∀ j < 8, (0x000000FF#32).getLsbD j = true := by decide
    have : ¬ i < 8 := fun h => by simp [hfield i h] at hi
    rw [getLsbD_setDx, if_neg this]

theorem setDy_frame (w : Word) (b : Byte) : setDy w b &&& ~~~0x0000FF00#32 = w &&& ~~~0x0000FF00#32 :=
  and_not_congr fun i hi => by
    have hfield : ∀ j < 16, 8 ≤ j → (0x0000FF00#32).getLsbD j = true := by decide
    have : ¬ (8 ≤ i ∧ i < 16) := fun h => by simp [hfield i h.2 h.1] at hi
    rw [getLsbD_setDy, if_neg this]

theorem setDy_setDx_frame (w : Word) (x y : Byte) :
    setDy (setDx w x) y &&& ~~~0x0000FFFF#32 = w &&& ~~~0x0000FFFF#32 :=
  and_not_congr fun i hi => by
    have hfield : ∀ j < 16, (0x0000FFFF#32).getLsbD j = true := by decide
    have : ¬ i < 16 := fun h => by simp [hfield i h] at hi
    rw [getLsbD_setDy, if_neg (by omega), getLsbD_setDx, if_neg (by omega)]

/-! ### VALID and BUTTONS (41 R93) -/

/-- A state with other values of the two fields. -/
def State.withFlags (n : BitVec 3) (v : Bool) (s : State) : State :=
  { s with sample := setValid (setButtons s.sample n) v }

/-- SAMPLE's fields are disjoint, so a delta write commutes with a write of the two. -/
theorem setDx_withFlags (w : Word) (n : BitVec 3) (v : Bool) (b : Byte) :
    setDx (setValid (setButtons w n) v) b = setValid (setButtons (setDx w b) n) v := by
  apply BitVec.eq_of_getLsbD_eq
  intro i _
  simp only [getLsbD_setDx, getLsbD_setValid, getLsbD_setButtons]
  by_cases h : i < 8
  · simp [h, show i ≠ 24 by omega, show ¬ 16 ≤ i by omega]
  · simp [h]

theorem setDy_withFlags (w : Word) (n : BitVec 3) (v : Bool) (b : Byte) :
    setDy (setValid (setButtons w n) v) b = setValid (setButtons (setDy w b) n) v := by
  apply BitVec.eq_of_getLsbD_eq
  intro i _
  simp only [getLsbD_setDy, getLsbD_setValid, getLsbD_setButtons]
  by_cases h : 8 ≤ i ∧ i < 16
  · simp [h, show i ≠ 24 by omega, show ¬ 16 ≤ i by omega]
  · simp only [if_neg h]

section Flags
variable (b : Build) (n : BitVec 3) (v : Bool) (s : State)

theorem shapeDx_withFlags : shapeDx b (s.withFlags n v) = (shapeDx b s).withFlags n v := by
  simp [shapeDx_eq, State.withFlags, setDx_withFlags]

theorem shapeDy_withFlags : shapeDy b (s.withFlags n v) = (shapeDy b s).withFlags n v := by
  simp [shapeDy_eq, State.withFlags, setDy_withFlags]

/-- 41 R93: whether it is refused or not, a SHAPE does the same to any values of the two fields. -/
theorem commandOf_withFlags {i : Instr} (hi : i.isShape = true) :
    commandOf b i (s.withFlags n v) = (commandOf b i s).withFlags n v := by
  cases i with
  | nop => cases hi
  | decode => cases hi
  | shapeX =>
    rw [commandOf, commandOf, shapeXState, shapeXState, shapeDx_withFlags, apply_ite (State.withFlags n v)]
    rfl
  | shapeY =>
    rw [commandOf, commandOf, shapeYState, shapeYState, shapeDy_withFlags, apply_ite (State.withFlags n v)]
    rfl
  | shapeXY =>
    rw [commandOf, commandOf, shapeXYState, shapeXYState, shapeDx_withFlags, shapeDy_withFlags,
      apply_ite (State.withFlags n v)]
    rfl

end Flags

end Sys2Proof.Machine
end

section
/-! PROOFS. The statements of 41_acceleration_shaper.md. -/

namespace Sys2Proof.Proofs

open Sys2Proof Sys2Proof.Machine

/-- Settles O24: the closed forms of q and of its rounding, and the two examples computed. -/
theorem curveIsTheRoundedRational : Obligations.CurveIsTheRoundedRational := by
  unfold Obligations.CurveIsTheRoundedRational
  refine ⟨?_, ?_, fun frac d t f ht => ⟨curveQ_eq_div frac d f ht, curveDivisor_pos frac d ht, ?_,
    sign_curveQ frac d f ht, curveQ_factor_zero frac d t, exactCurve_eq_roundHalfAway frac d f ht,
    exactCurve_eq_floor frac d t f⟩⟩
  · rw [roundHalfAway, sign_pos (by norm_num), abs_of_pos (by norm_num)]
    norm_num
  · rw [roundHalfAway, sign_neg (by norm_num), abs_of_neg (by norm_num)]
    norm_num
  · rintro hd rfl
    rw [abs_zero] at hd
    omega

/-- Settles O29: the elapsed time is the one residue below 2^TS_W of NOW - LAST_TIME. -/
theorem elapsedIsTheGapModuloTheTimeWidth : Obligations.ElapsedIsTheGapModuloTheTimeWidth := by
  unfold Obligations.ElapsedIsTheGapModuloTheTimeWidth
  intro p now last _
  refine ⟨elapsedTime_lt p now last, fun gap hgap hnow => elapsedTime_eq_of_modEq hgap ?_,
    fun hlt hlast => elapsedTime_eq_of_modEq (by omega) ?_⟩
  · calc (now.toNat : Int) - last.toNat
        ≡ (last.toNat + gap) - last.toNat [ZMOD 2 ^ p.tsW] := by
          refine Int.ModEq.sub_right _ ?_
          rw [hnow]; push_cast
          exact Int.mod_modEq _ _
      _ = gap := by ring
  · calc (now.toNat : Int) - last.toNat
        ≡ (now.toNat : Int) - last.toNat + 2 ^ p.tsW [ZMOD 2 ^ p.tsW] := Int.add_modEq_right.symm
      _ = ((2 ^ p.tsW - (last.toNat - now.toNat) : Nat) : Int) := by
          push_cast [hlt.le, (Nat.sub_le _ _).trans hlast.le]
          ring

/-- Settles O16: refused, each SHAPE only raises CFG_ERR. -/
theorem refusedShapeOnlyRaisesCfgErr : Obligations.RefusedShapeOnlyRaisesCfgErr := by
  unfold Obligations.RefusedShapeOnlyRaisesCfgErr
  intro i s hi hen hzero
  rw [exec_eq_commandOf, commandOf_of_refused _ hi ((shapeRefused_iff_bits _).mpr ⟨hen, hzero⟩)]

/-- Settles O17: disabled, each SHAPE writes the deltas back as they were. -/
theorem disabledShapePassesThrough : Obligations.DisabledShapePassesThrough := by
  unfold Obligations.DisabledShapePassesThrough
  intro i s hi hdisabled
  rw [exec_eq_commandOf, commandOf_of_disabled _ hi hdisabled]

/-- Settles O18: an axis evaluation is its value, by branches, with LAST_TIME at NOW and SAT as the
value says. -/
theorem shapeAxisFollowsItsBranches : Obligations.ShapeAxisFollowsItsBranches := by
  unfold Obligations.ShapeAxisFollowsItsBranches
  refine ⟨by decide, fun b d8 s => ?_⟩
  intro d elapsed r passed overflowed
  have helapsed : (elapsedTime b.params s.now s.lastTime : Int) = elapsed := elapsedTime_cast _ _ _
  have passes (h : accelEn s.cfg = false ∨ |d| < threshold s.cfg ∨
      b.params.staleLimit < elapsedTime b.params s.now s.lastTime) : shapeAxis b d8 s = passed :=
    shapeAxis_of_value (shapeValue_passes b d8 h)
  refine ⟨fun hdisabled => passes (.inl hdisabled), fun hbelow => passes (.inr (.inl hbelow)),
    fun hstale => passes (.inr (.inr (by omega))), fun hen hreached hfresh => ?_⟩
  have hcurve := shapeValue_curve b d8 hen hreached (Int.ofNat_le.mp (helapsed.trans_le hfresh))
  refine ⟨fun hge hle => ?_, fun hgt hsat => ?_, fun hlt hsat => ?_, fun hout hwrap => ?_⟩
  · exact shapeAxis_of_value (hcurve.trans (narrow_of_fits _ hge hle))
  · rw [hsat] at hcurve
    exact shapeAxis_of_value (hcurve.trans (narrow_sat_of_gt hgt))
  · rw [hsat] at hcurve
    exact shapeAxis_of_value (hcurve.trans (narrow_sat_of_lt hlt))
  · rw [hwrap] at hcurve
    exact shapeAxis_of_value (hcurve.trans (narrow_wrap_of_overflow hout))

/-- Settles O19: SHAPE_X writes the axis function's value to DX. -/
theorem shapeXShapesOnlyDx : Obligations.ShapeXShapesOnlyDx := by
  unfold Obligations.ShapeXShapesOnlyDx
  intro s hexecuted
  rw [← shapeRefused_iff_bits] at hexecuted
  have hexec := (exec_eq_commandOf .shapeX s).trans
    (congrArg _ ((commandOf_shapeX_of_accepted buildV1 hexecuted).trans (shapeDx_eq buildV1 s)))
  refine ⟨_, _, hexec, ?_, setDx_frame s.sample _⟩
  rw [dx_setDx, ← elapsedTime_pdasV1]
  exact axisSpec_shapeValue _ _ hexecuted

/-- Settles O20: SHAPE_Y writes the axis function's value to DY. -/
theorem shapeYShapesOnlyDy : Obligations.ShapeYShapesOnlyDy := by
  unfold Obligations.ShapeYShapesOnlyDy
  intro s hexecuted
  rw [← shapeRefused_iff_bits] at hexecuted
  have hexec := (exec_eq_commandOf .shapeY s).trans
    (congrArg _ ((commandOf_shapeY_of_accepted buildV1 hexecuted).trans (shapeDy_eq buildV1 s)))
  refine ⟨_, _, hexec, ?_, setDy_frame s.sample _⟩
  rw [dy_setDy, ← elapsedTime_pdasV1]
  exact axisSpec_shapeValue _ _ hexecuted

/-- Settles O21: each delta is the axis function's value, Y's at elapsed 0. -/
theorem shapeXYShapesYAtElapsedZero : Obligations.ShapeXYShapesYAtElapsedZero := by
  unfold Obligations.ShapeXYShapesYAtElapsedZero
  intro s hexecuted
  rw [← shapeRefused_iff_bits] at hexecuted
  have hexec := (exec_eq_commandOf .shapeXY s).trans
    (congrArg _ ((commandOf_shapeXY_of_accepted buildV1 hexecuted).trans (shapeDy_shapeDx_eq buildV1 s)))
  refine ⟨_, _, _, hexec, ?_, ?_, setDy_setDx_frame s.sample _ _⟩
  · rw [dx_setDy, dx_setDx, ← elapsedTime_pdasV1]
    exact axisSpec_shapeValue _ _ hexecuted
  · rw [dy_setDy]
    exact axisSpec_shapeValue 0 _ hexecuted

/-- Settles O23: a SHAPE keeps the two fields, and commutes with any change of them. -/
theorem shapeNeitherReadsNorWritesValidAndButtons : Obligations.ShapeNeitherReadsNorWritesValidAndButtons := by
  unfold Obligations.ShapeNeitherReadsNorWritesValidAndButtons
  intro i s hi
  have hne : i ≠ .decode := by rintro rfl; cases hi
  obtain ⟨hvalid, hbuttons⟩ := commandOf_valid_buttons buildV1 s hne
  refine ⟨commandOf buildV1 i s, exec_eq_commandOf i s, hvalid, hbuttons, fun n v => ?_⟩
  rw [exec_eq_commandOf]
  exact congrArg Host.Outcome.next (commandOf_withFlags buildV1 n v s hi)

end Sys2Proof.Proofs
end

section
/-! SUPPORT. 42_control.md: the command without effect. -/

namespace Sys2Proof.Machine

/-- 42 R100: NOP answers the state it is given. -/
theorem exec_nop (s : State) : exec .nop s = .next s := rfl

end Sys2Proof.Machine
end

section
/-! PROOFS. The statement of 42_control.md. -/

namespace Sys2Proof.Proofs

open Sys2Proof Sys2Proof.Machine

/-- Settles O8: word 0 is the word of NOP, so a step that takes its CMD write runs NOP on the state with only
that transaction gone, and NOP answers the state it was given. -/
theorem nopHasNoEffect : Obligations.NopHasNoEffect := by
  unfold Obligations.NopHasNoEffect
  have hword : decode 0x00000000 = .command .nop := decode_encode .nop
  exact ⟨hword, exec_nop, fun s rest hin => (step_of_cmdWrite_command hword hin).trans (exec_nop _)⟩

end Sys2Proof.Proofs
end

section
/-! SUPPORT. Error entry (60 R110, R118): which operation sets a STAT bit that was clear, and at the factor of
2.0 the reason the curve cannot set SAT (92 D12). -/

namespace Sys2Proof.Machine

/-- A bit that raising f sets is f's own. -/
theorem eq_of_statRaise_sets {e f : Error} {w : Word} (hclear : statHas e w = false)
    (hset : statHas e (statRaise f w) = true) : f = e := by
  simpa [statHas_statRaise, hclear] using hset

/-- A register write sets no STAT bit: to STAT itself it only clears. -/
theorem statHas_writeReg_of_clear {e : Error} {s : State} (p : Params) (r : Reg) (v : Word)
    (hclear : statHas e s.stat = false) : statHas e (writeReg p r v s).stat = false := by
  by_cases hr : r = .stat
  · subst hr
    rw [writeReg, statHas_statClear, hclear, Bool.false_and]
  · rw [writeReg_stat_of_ne p v s hr, hclear]

/-! ### The curve up to a factor of 2.0 (92 D12) -/

/-- Up to a factor of 2.0 a delta that reaches the threshold is never lengthened, for `2T ≤ T + abs(d)`. -/
theorem exactCurve_between {frac : Nat} {d : Int} {t f : Nat} (ht : 1 ≤ t) (hreached : t ≤ d.natAbs)
    (hf : f ≤ 2 * 2 ^ frac) : min d 0 ≤ exactCurve frac d t f ∧ exactCurve frac d t f ≤ max d 0 := by
  have hgain : d.natAbs * t * f ≤ 2 ^ frac * (t + d.natAbs) * d.natAbs :=
    calc d.natAbs * t * f ≤ d.natAbs * t * (2 * 2 ^ frac) := Nat.mul_le_mul_left _ hf
      _ = 2 ^ frac * (2 * t) * d.natAbs := by ring
      _ ≤ 2 ^ frac * (t + d.natAbs) * d.natAbs := by gcongr; omega
  have hdivisor : 0 < 2 ^ frac * (t + d.natAbs) := by positivity
  have hlength : (2 * (d.natAbs * t * f) + 2 ^ frac * (t + d.natAbs)) / (2 * (2 ^ frac * (t + d.natAbs)))
      ≤ d.natAbs := by
    rw [← Nat.lt_succ_iff, Nat.div_lt_iff_lt_mul (by omega), Nat.succ_mul]
    linarith
  simp only [exactCurve]
  generalize (_ / _ : Nat) = length at hlength ⊢
  rcases lt_trichotomy d 0 with hneg | rfl | hpos
  · rw [Int.sign_eq_neg_one_of_neg hneg]; omega
  · simp
  · rw [Int.sign_eq_one_of_pos hpos]; omega

/-- The causes of SAT in PDAS v1 (60 R110, 92 D12), of a command that is not refused. -/
theorem factor_of_overflow {cfg : Word} {elapsed : Nat} {d8 : Byte} (h : ¬ shapeRefused cfg = true)
    (hsat : (shapeValue buildV1 cfg elapsed d8).2 = true) :
    accelEn cfg = true ∧ 1 ≤ threshold cfg ∧ 0x0200 < factor cfg := by
  by_cases hpass : accelEn cfg = false ∨ |s8 d8| < threshold cfg ∨ buildV1.params.staleLimit < elapsed
  · simp [shapeValue_passes buildV1 d8 hpass] at hsat
  · simp only [not_or, Bool.not_eq_false, not_lt] at hpass
    obtain ⟨hen, hreached, hfresh⟩ := hpass
    have ht := one_le_threshold_of_not_refused h hen
    refine ⟨hen, ht, lt_of_not_ge fun hfactor => ?_⟩
    have hlength : threshold cfg ≤ (s8 d8).natAbs := by rwa [Int.abs_eq_natAbs, Nat.cast_le] at hreached
    obtain ⟨hge, hle⟩ := exactCurve_between (frac := 8) ht hlength hfactor
    have hlow := s8_ge d8
    have hhigh := s8_le d8
    rw [shapeValue_curve buildV1 d8 hen hreached hfresh, buildV1_curve,
      narrow_of_fits _ (by omega) (by omega)] at hsat
    cases hsat

/-! ### One command -/

/-- The STAT of an axis evaluation: as it was, or SAT raised because the value said so. -/
theorem sat_raised_only_if {x : Bool} {p : Prop} (w : Word) (hx : x = true → p) :
    (if x then w ||| 8 else w) = w ∨ (if x then w ||| 8 else w) = statRaise .sat w ∧ p := by
  cases x with
  | false => exact .inl rfl
  | true => exact .inr ⟨rfl, hx rfl⟩

/-- A SHAPE that is not refused raises SAT for a value out of range, or nothing (41 R88). -/
theorem commandOf_stat_of_accepted (b : Build) {i : Instr} {s : State} (hi : i.isShape = true)
    (h : ¬ shapeRefused s.cfg = true) : (commandOf b i s).stat = s.stat ∨
      (commandOf b i s).stat = statRaise .sat s.stat ∧
        ∃ elapsed d8, (shapeValue b s.cfg elapsed d8).2 = true := by
  cases i with
  | nop => cases hi
  | decode => cases hi
  | shapeX =>
    rw [commandOf_shapeX_of_accepted b h, shapeDx_eq]
    exact sat_raised_only_if s.stat fun hx => ⟨_, _, hx⟩
  | shapeY =>
    rw [commandOf_shapeY_of_accepted b h, shapeDy_eq]
    exact sat_raised_only_if s.stat fun hy => ⟨_, _, hy⟩
  | shapeXY =>
    rw [commandOf_shapeXY_of_accepted b h, shapeDy_shapeDx_eq]
    refine sat_raised_only_if s.stat fun hxy => ?_
    rcases Bool.or_eq_true_iff.mp hxy with hx | hy
    · exact ⟨_, _, hx⟩
    · exact ⟨_, _, hy⟩

/-- NOP and DECODE leave STAT alone. -/
theorem commandOf_stat_of_not_shape (b : Build) {i : Instr} (s : State) (hi : ¬ i.isShape = true) :
    (commandOf b i s).stat = s.stat := by
  cases i with
  | nop => rfl
  | decode => rfl
  | shapeX => exact absurd rfl hi
  | shapeY => exact absurd rfl hi
  | shapeXY => exact absurd rfl hi

/-- A command that sets a STAT bit is a SHAPE: refused, it sets CFG_ERR, and else SAT. -/
theorem commandOf_sets {b : Build} {i : Instr} {s : State} {e : Error} (hclear : statHas e s.stat = false)
    (hset : statHas e (commandOf b i s).stat = true) : i.isShape = true ∧
      (shapeRefused s.cfg = true ∧ e = .cfgErr ∨ ¬ shapeRefused s.cfg = true ∧ e = .sat ∧
        ∃ elapsed d8, (shapeValue b s.cfg elapsed d8).2 = true) := by
  have hi : i.isShape = true := by
    by_contra hn
    simp [commandOf_stat_of_not_shape b s hn, hclear] at hset
  refine ⟨hi, ?_⟩
  by_cases h : shapeRefused s.cfg = true
  · rw [commandOf_of_refused b hi h] at hset
    exact .inl ⟨h, (eq_of_statRaise_sets (f := .cfgErr) hclear hset).symm⟩
  · rcases commandOf_stat_of_accepted b hi h with hkept | ⟨hraised, hoverflow⟩
    · simp [hkept, hclear] at hset
    · rw [hraised] at hset
      exact .inr ⟨h, (eq_of_statRaise_sets hclear hset).symm, hoverflow⟩

/-! ### One step -/

/-- How a step from s to t sets the STAT bit of an error, with its cause (60 R110). Of the three errors that
cancel, it tells the whole next state (60 R118). -/
inductive ErrorEntry (s t : State) : Error → Prop where
  | illegalWord (v : Word) (rest : List Input) (hin : s.inputs = .bus (.write 0x0C .four v) :: rest)
      (hv : ∀ i, v ≠ encode i) (ht : t = { raise .illegalCmd s with inputs := rest }) :
      ErrorEntry s t .illegalCmd
  | refusedShape (i : Instr) (rest : List Input) (hshape : i.isShape = true)
      (hin : s.inputs = .bus (.write 0x0C .four (encode i)) :: rest)
      (hrefused : shapeRefused s.cfg = true) (ht : t = { raise .cfgErr s with inputs := rest }) :
      ErrorEntry s t .cfgErr
  | badAccess (off : Offset) (size : Size) (rest : List Input) (ys : List Word)
      (hbad : isBusError off size)
      (hin : s.inputs = .bus (.read off size) :: rest ∨ ∃ v, s.inputs = .bus (.write off size v) :: rest)
      (ht : t = { raise .busErr s with inputs := rest, responses := ys }) : ErrorEntry s t .busErr
  | overflow (i : Instr) (rest : List Input) (hshape : i.isShape = true)
      (hin : s.inputs = .bus (.write 0x0C .four (encode i)) :: rest)
      (haccepted : ¬ shapeRefused s.cfg = true)
      (hsat : ∃ elapsed d8, (shapeValue buildV1 s.cfg elapsed d8).2 = true) : ErrorEntry s t .sat

/-- A step that sets a STAT bit enters that error. -/
theorem step_errorEntry {s t : State} {e : Error} (h : step s = .next t) (hclear : statHas e s.stat = false)
    (hset : statHas e t.stat = true) : ErrorEntry s t e := by
  have not_set (hclear' : statHas e t.stat = false) : ErrorEntry s t e :=
    absurd hset (Bool.eq_false_iff.mp hclear')
  rcases step_cases h with ⟨-, rfl⟩ | ⟨rest, -, rfl⟩ | ⟨off, size, v, rest, hin, hsel, rfl⟩ |
    ⟨off, size, rest, hin, hsel, rfl⟩ | ⟨off, size, r, v, rest, -, -, -, rfl⟩ |
    ⟨off, size, v, why, rest, hin, hsel, hdecode, rfl⟩ |
    ⟨off, size, v, i, rest, hin, hsel, hdecode, rfl⟩ | ⟨off, size, r, rest, -, -, rfl⟩
  · exact not_set hclear
  · exact not_set BitVec.getLsbD_zero
  · obtain rfl := eq_of_statRaise_sets (f := .busErr) hclear hset
    exact .badAccess off size rest _ ((selected_eq_none_iff off size).mp hsel) (.inr ⟨v, hin⟩) rfl
  · obtain rfl := eq_of_statRaise_sets (f := .busErr) hclear hset
    exact .badAccess off size rest _ ((selected_eq_none_iff off size).mp hsel) (.inl hin) rfl
  · exact not_set (statHas_writeReg_of_clear (s := { s with inputs := rest }) pdasV1 r v hclear)
  · obtain rfl := eq_of_statRaise_sets (f := .illegalCmd) hclear hset
    obtain ⟨rfl, rfl⟩ := selected_eq_some.mp hsel
    exact .illegalWord v rest hin (fun i hv => by simp [hv, decode_encode] at hdecode) rfl
  · obtain ⟨rfl, rfl⟩ := selected_eq_some.mp hsel
    obtain rfl := eq_encode_of_decode hdecode
    obtain ⟨hshape, ⟨hrefused, rfl⟩ | ⟨haccepted, rfl, hsat⟩⟩ :=
      commandOf_sets (s := { s with inputs := rest }) hclear hset
    · exact .refusedShape i rest hshape hin hrefused (commandOf_of_refused buildV1 hshape hrefused)
    · exact .overflow i rest hshape hin haccepted hsat
  · exact not_set hclear

end Sys2Proof.Machine
end

section
/-! PROOFS. The statements of 60_exceptions.md. -/

namespace Sys2Proof.Proofs

open Sys2Proof Sys2Proof.Machine

/-- Settles O42: each way a step can enter an error is that error's cause; a value that overflows has a factor
above 2.0, for up to 2.0 the curve lengthens no delta that reaches the threshold. -/
theorem eachErrorHasItsCause : Obligations.EachErrorHasItsCause := by
  unfold Obligations.EachErrorHasItsCause
  intro s t e h hclear hset
  cases step_errorEntry h hclear hset with
  | illegalWord v rest hin hv ht => exact ⟨v, rest, hin, hv⟩
  | refusedShape i rest hshape hin hrefused ht =>
    exact ⟨i, rest, hshape, hin, (shapeRefused_iff s.cfg).mp hrefused⟩
  | badAccess off size rest ys hbad hin ht => exact ⟨off, size, rest, hbad, hin⟩
  | overflow i rest hshape hin haccepted hsat =>
    obtain ⟨elapsed, d8, hoverflow⟩ := hsat
    exact ⟨i, rest, hshape, hin, factor_of_overflow haccepted hoverflow⟩

/-- Settles O7: a word of no command decodes to an illegal one. -/
theorem illegalCommandWordOnlyRaisesIllegalCmd : Obligations.IllegalCommandWordOnlyRaisesIllegalCmd := by
  unfold Obligations.IllegalCommandWordOnlyRaisesIllegalCmd
  intro s v rest hin hv
  obtain ⟨why, hdecode⟩ := exists_illegal_of_ne_encode hv
  exact step_of_cmdWrite_illegal hdecode hin

/-- Settles O44: entering one of the three errors is the one raise of its bit. -/
theorem cancellingErrorsArePrecise : Obligations.CancellingErrorsArePrecise := by
  unfold Obligations.CancellingErrorsArePrecise
  intro s t e he h hclear hset
  cases step_errorEntry h hclear hset with
  | illegalWord v rest hin hv ht => subst ht; exact ⟨sameRegs_withBoundary s _ _, rfl⟩
  | refusedShape i rest hshape hin hrefused ht => subst ht; exact ⟨sameRegs_withBoundary s _ _, rfl⟩
  | badAccess off size rest ys hbad hin ht => subst ht; exact ⟨sameRegs_withBoundary s _ _, rfl⟩
  | overflow i rest hshape hin haccepted hsat => exact absurd rfl he

/-- Settles O45: a step waits, takes the one input that stands next, or stops at a second master's. -/
theorem stepGoesOnForEveryAdmittedInput : Obligations.StepGoesOnForEveryAdmittedInput := by
  unfold Obligations.StepGoesOnForEveryAdmittedInput
  refine ⟨fun s => step_of_nil, fun s x rest hin => ⟨fun hx => ?_, ?_⟩⟩
  · obtain ⟨t, -, hstep, htaken, -⟩ := step_takes_input hin hx
    exact ⟨t, hstep, htaken⟩
  · rintro a rfl
    exact step_of_foreign hin

end Sys2Proof.Proofs
end

section
/-! SUPPORT. 70 R138: what one SHAPE after another does, SHAPE_X then SHAPE_Y and the other way round. -/

namespace Sys2Proof.Machine

/-- SHAPE_X keeps CFG, so SHAPE_Y is refused if it was, and a second CFG_ERR raises nothing new. -/
theorem commandOf_shapeY_shapeX (b : Build) (s : State) :
    commandOf b .shapeY (commandOf b .shapeX s) = commandOf b .shapeXY s := by
  by_cases h : shapeRefused s.cfg = true
  · rw [commandOf_of_refused b (i := .shapeX) rfl h, commandOf_of_refused b (i := .shapeXY) rfl h,
      commandOf_of_refused b (i := .shapeY) (s := { s with stat := s.stat ||| 2 }) rfl h, BitVec.or_assoc,
      BitVec.or_self]
  · rw [commandOf_shapeX_of_accepted b h, commandOf_shapeXY_of_accepted b h,
      commandOf_shapeY_of_accepted b (by rwa [shapeDx_cfg])]

/-- SHAPE_X leaves the delta that SHAPE_Y shapes. -/
@[simp] theorem dy_shapeDx (b : Build) (s : State) : dy (shapeDx b s).sample = dy s.sample := by
  rw [shapeDx_sample, dy_setDx]

/-- Y sees the elapsed time and X sees 0: the mirror of `shapeDy_shapeDx_eq`. -/
theorem shapeDx_shapeDy_eq (b : Build) (s : State) :
    shapeDx b (shapeDy b s) = { s with
      sample := setDx (setDy s.sample
        (shapeValue b s.cfg (elapsedTime b.params s.now s.lastTime) (dy s.sample)).1)
        (shapeValue b s.cfg 0 (dx s.sample)).1
      lastTime := s.now
      stat := if (shapeValue b s.cfg 0 (dx s.sample)).2 ||
          (shapeValue b s.cfg (elapsedTime b.params s.now s.lastTime) (dy s.sample)).2
        then s.stat ||| 8 else s.stat } := by
  rw [shapeDx_eq, shapeDy_eq]
  simp only [dx_setDy, elapsedTime_self, sat_of_either_axis]
  rw [Bool.or_comm]

section ExecAccepted
variable {s : State} (h : ¬ shapeRefused s.cfg = true)
include h

theorem exec_shapeX_of_accepted : exec .shapeX s = .next (shapeDx buildV1 s) := by
  rw [exec_eq_commandOf, commandOf_shapeX_of_accepted buildV1 h]

theorem exec_shapeY_of_accepted : exec .shapeY s = .next (shapeDy buildV1 s) := by
  rw [exec_eq_commandOf, commandOf_shapeY_of_accepted buildV1 h]

end ExecAccepted

end Sys2Proof.Machine
end

section
/-! SUPPORT. The monitor of the host's duties (70 R134 to R141): which accesses it allows, what a step of one
does, and what the monitor remembers. -/

namespace Sys2Proof.Machine

/-! ### The monitor's memory -/

theorem Duties.afterCommand_cfgWritten (d : Duties) (sample : Word) (i : Instr) :
    (d.afterCommand sample i).cfgWritten = d.cfgWritten := by
  cases i <;> rfl

/-- Nothing makes the monitor forget that CFG was written (70 R137). -/
theorem Duties.after_cfgWritten {d : Duties} (h : d.cfgWritten = true) (a : Access) (t : State) :
    (d.after a t).cfgWritten = true := by
  unfold Duties.after
  split
  case h_1 => rfl
  case h_5 =>
    split
    · rw [Duties.afterCommand_cfgWritten, h]
    · exact h
  all_goals exact h

theorem Duties.after_cmdWrite (d : Duties) (i : Instr) (t : State) :
    d.after (.write (regOffset .cmd) .four (encode i)) t = d.afterCommand t.sample i := by
  have hstarted : startedCommand (.write (regOffset .cmd) .four (encode i)) = some i := by
    rw [startedCommand, if_pos (selected_regOffset .cmd), decode_encode, Decoded.instr?]
  have hwritten : writtenReg (.write (regOffset .cmd) .four (encode i)) = some .cmd := selected_regOffset .cmd
  rw [Duties.after, hwritten, hstarted]

/-- After DECODE the sample is a new one on both axes or on neither, so each SHAPE needs the same (70 R139). -/
theorem Duties.allowsCommand_afterDecode (d : Duties) (sample : Word) {i : Instr} (hi : i.isShape = true) :
    (d.afterCommand sample .decode).allowsCommand i = (d.cfgWritten && d.nowNew && valid sample) := by
  have one_axis : (d.cfgWritten && valid sample && (d.nowNew || !valid sample)) =
      (d.cfgWritten && d.nowNew && valid sample) := by cases valid sample <;> simp
  have both_axes : (d.cfgWritten && valid sample && valid sample && d.nowNew) =
      (d.cfgWritten && d.nowNew && valid sample) := by cases valid sample <;> simp
  cases i with
  | nop => cases hi
  | decode => cases hi
  | shapeX => exact one_axis
  | shapeY => exact one_axis
  | shapeXY => exact both_axes

/-! ### The allowed accesses -/

/-- An access the monitor allows, and how its step takes s to t: a register read, a register written, or a
command run. -/
inductive AllowedStep (d : Duties) (s t : State) : Access → Prop where
  | read (r : Reg) (xs : List Input) (ys : List Word) (ht : t = { s with inputs := xs, responses := ys }) :
      AllowedStep d s t (.read (regOffset r) .four)
  | write (r : Reg) (v : Word) (xs : List Input) (hcfg : r = .cfg → d.cfgWritten = false)
      (ht : t = writeReg pdasV1 r v { s with inputs := xs }) :
      AllowedStep d s t (.write (regOffset r) .four v)
  | command (i : Instr) (xs : List Input) (ht : t = commandOf buildV1 i { s with inputs := xs }) :
      AllowedStep d s t (.write (regOffset .cmd) .four (encode i))

/-- The monitor allows no access that reaches no register (20 R43). -/
theorem exists_regOffset_of_allows_write {d : Duties} {off : Offset} {size : Size} {v : Word}
    (h : d.allows (.write off size v) = true) : ∃ r, off = regOffset r ∧ size = .four := by
  cases hs : selected off size with
  | none => simp [Duties.allows, hs] at h
  | some r => exact ⟨r, (selected_eq_some.mp hs).symm⟩

theorem exists_regOffset_of_allows_read {d : Duties} {off : Offset} {size : Size}
    (h : d.allows (.read off size) = true) : ∃ r, off = regOffset r ∧ size = .four := by
  obtain ⟨r, hs⟩ := Option.isSome_iff_exists.mp h
  exact ⟨r, (selected_eq_some.mp hs).symm⟩

/-- CFG is written once (70 R137). -/
theorem cfgWritten_of_allows {d : Duties} {v : Word}
    (h : d.allows (.write (regOffset .cfg) .four v) = true) : d.cfgWritten = false := by
  simpa [Duties.allows, selected_regOffset] using h

/-- A CMD write the monitor allows carries a command's word (30 R58). -/
theorem exists_encode_of_allows {d : Duties} {v : Word}
    (h : d.allows (.write (regOffset .cmd) .four v) = true) : ∃ i, v = encode i := by
  by_contra hnone
  obtain ⟨why, hdecode⟩ := exists_illegal_of_ne_encode (not_exists.mp hnone)
  simp [Duties.allows, selected_regOffset, hdecode] at h

/-- A step of an access the monitor allows goes on, as `AllowedStep` says. -/
theorem step_of_allows {d : Duties} {s : State} {a : Access} {rest : List Input}
    (hin : s.inputs = .bus a :: rest) (h : d.allows a = true) :
    ∃ t, step s = .next t ∧ AllowedStep d s t a := by
  cases a with
  | read off size =>
    obtain ⟨r, rfl, rfl⟩ := exists_regOffset_of_allows_read h
    exact ⟨_, step_of_readReg hin, .read r rest _ rfl⟩
  | write off size v =>
    obtain ⟨r, rfl, rfl⟩ := exists_regOffset_of_allows_write h
    by_cases hr : r = .cmd
    · subst hr
      obtain ⟨i, rfl⟩ := exists_encode_of_allows h
      have hstep := step_of_cmdWrite_command (decode_encode i) hin
      exact ⟨_, hstep.trans (exec_eq_commandOf i _), .command i rest rfl⟩
    · exact ⟨_, step_of_writeReg hr hin, .write r v rest (fun hcfg => cfgWritten_of_allows (hcfg ▸ h)) rfl⟩

/-- An allowed access sets no error of the interface: a command that sets a bit sets CFG_ERR or SAT. -/
theorem AllowedStep.statHas_le {d : Duties} {s t : State} {a : Access} {e : Error} (h : AllowedStep d s t a)
    (he : e = .illegalCmd ∨ e = .busErr) : statHas e t.stat ≤ statHas e s.stat := by
  rw [Bool.le_iff_imp]
  intro hset
  by_contra hclear
  rw [Bool.not_eq_true] at hclear
  cases h with
  | read r xs ys ht => subst ht; simp [hclear] at hset
  | write r v xs hcfg ht =>
    subst ht
    simp [statHas_writeReg_of_clear (s := { s with inputs := xs }) pdasV1 r v hclear] at hset
  | command i xs ht =>
    subst ht
    obtain ⟨-, ⟨-, rfl⟩ | ⟨-, rfl, -⟩⟩ := commandOf_sets (s := { s with inputs := xs }) hclear hset
    · simp at he
    · simp at he

/-- Once CFG has been written, an allowed access leaves it alone. -/
theorem AllowedStep.cfg_eq {d : Duties} {s t : State} {a : Access} (h : AllowedStep d s t a)
    (hwritten : d.cfgWritten = true) : t.cfg = s.cfg := by
  cases h with
  | read r xs ys ht => subst ht; rfl
  | write r v xs hcfg ht =>
    subst ht
    exact writeReg_cfg_of_ne pdasV1 v _ fun hr => by simp [hcfg hr] at hwritten
  | command i xs ht => subst ht; exact commandOf_cfg buildV1 i _

end Sys2Proof.Machine
end

section
/-! PROOFS. The statements of 70_reset_and_hazards.md. -/

namespace Sys2Proof.Proofs

open Sys2Proof Sys2Proof.Machine

/-- Settles O22: SHAPE_X sets LAST_TIME to NOW and leaves DY, so what SHAPE_Y then sees is SHAPE_XY's second
axis, or the time since that NOW; SHAPE_Y then SHAPE_X likewise. -/
theorem axesShareTheTimestamp : Obligations.AxesShareTheTimestamp := by
  unfold Obligations.AxesShareTheTimestamp
  refine ⟨fun s => ⟨_, _, exec_eq_commandOf _ s, exec_eq_commandOf _ _, ?_⟩, fun s hexecuted => ?_⟩
  · rw [exec_eq_commandOf, commandOf_shapeY_shapeX]
  have haccepted : ¬ shapeRefused s.cfg = true := by rwa [shapeRefused_iff_bits]
  refine ⟨?_, fun v => ?_, ?_⟩
  · obtain ⟨w, x, y, hexec, -, hy, -⟩ := shapeXYShapesYAtElapsedZero s hexecuted
    exact ⟨_, y, hexec, hy⟩
  · obtain ⟨w, y, hexec, hy, -⟩ :=
      shapeYShapesOnlyDy { shapeDx buildV1 s with now := v } (by rwa [shapeDx_cfg])
    refine ⟨_, _, y, exec_shapeX_of_accepted haccepted, hexec, ?_⟩
    simpa only [elapsedV1, shapeDx_cfg, shapeDx_lastTime, dy_shapeDx] using hy
  · have hexec := exec_shapeX_of_accepted (s := shapeDy buildV1 s) (by rwa [shapeDy_cfg])
    rw [shapeDx_shapeDy_eq] at hexec
    refine ⟨_, _, _, _, exec_shapeY_of_accepted haccepted, hexec, ?_, ?_, rfl, rfl⟩
    · rw [dy_setDx, dy_setDy, ← elapsedTime_pdasV1]
      exact axisSpec_shapeValue _ _ haccepted
    · rw [dx_setDx]
      exact axisSpec_shapeValue 0 _ haccepted

/-- Settles O59: an allowed access writes CFG only where it has not been written. -/
theorem dutifulHostNeverChangesCfgAgain : Obligations.DutifulHostNeverChangesCfgAgain := by
  unfold Obligations.DutifulHostNeverChangesCfgAgain
  intro d s t a rest hin hwritten hallowed hstep
  obtain ⟨u, hu, heffect⟩ := step_of_allows hin hallowed
  obtain rfl : u = t := Host.Outcome.next.inj (hu.symm.trans hstep)
  exact ⟨heffect.cfg_eq hwritten, Duties.after_cfgWritten hwritten a u⟩

/-- Settles O60: an allowed access reaches a register and starts no illegal command, and DECODE sets the
monitor's two deltas to VALID. -/
theorem dutifulHostRaisesNoInterfaceError : Obligations.DutifulHostRaisesNoInterfaceError := by
  unfold Obligations.DutifulHostRaisesNoInterfaceError
  intro d s a rest hin hallowed
  obtain ⟨t, hstep, heffect⟩ := step_of_allows hin hallowed
  refine ⟨t, hstep, heffect.statHas_le (.inl rfl), heffect.statHas_le (.inr rfl), ?_⟩
  rintro rfl
  have hafter : d.after (.write 0x0C .four (encode .decode)) t = d.afterCommand t.sample .decode :=
    d.after_cmdWrite .decode t
  rw [hafter]
  exact ⟨rfl, rfl, fun i hi => d.allowsCommand_afterDecode t.sample hi⟩

/-- Settles O51: the step of a reset is `resetBlock`, which keeps the boundary's record. -/
theorem resetInputRestoresEveryRegister : Obligations.ResetInputRestoresEveryRegister := by
  unfold Obligations.ResetInputRestoresEveryRegister
  exact fun s rest hin => step_of_reset hin

end Sys2Proof.Proofs
end

section
/-! SUPPORT. The opcode table (30 R69): its rows are the commands with their words under a mask of all bits. -/

namespace Sys2Proof

/-- A command's row is the one row its word names. -/
theorem filter_names_encode (i : Instr) :
    opcodeTable.filter (·.names (encode i)) = [⟨i, 0xFFFFFFFF, encode i⟩] := by
  cases i <;> decide

theorem row_mem_opcodeTable (i : Instr) : ⟨i, 0xFFFFFFFF, encode i⟩ ∈ opcodeTable := by
  cases i <;> decide

/-- A row of the table is its command's. -/
theorem row_eq_of_mem {r : OpcodeRow} (hr : r ∈ opcodeTable) : r = ⟨r.instr, 0xFFFFFFFF, encode r.instr⟩ := by
  revert r
  decide

/-- The mask keeps every bit, so a word names a row by being its command's word. -/
theorem eq_encode_of_names {r : OpcodeRow} {w : Word} (hr : r ∈ opcodeTable) (h : r.names w = true) :
    w = encode r.instr := by
  rw [row_eq_of_mem hr, OpcodeRow.names, beq_iff_eq] at h
  rwa [show (0xFFFFFFFF : Word) = BitVec.allOnes 32 from rfl, BitVec.and_allOnes] at h

theorem filter_names_of_ne_encode {w : Word} (h : ∀ i, w ≠ encode i) :
    opcodeTable.filter (·.names w) = [] :=
  List.filter_eq_nil_iff.mpr fun r hr hnames => h r.instr (eq_encode_of_names hr hnames)

/-- The first row a word names is the first of all the rows it names. -/
theorem tableDecode_eq_head? (w : Word) :
    tableDecode w = (opcodeTable.filter (·.names w)).head?.map OpcodeRow.instr := by
  rw [tableDecode, List.head?_filter]

end Sys2Proof
end

section
/-! SUPPORT. The packet decoder, what the spec derives (40 R74 to R78): the value of a reconstructed byte, the
frame bits DECODE reads, and a second DECODE. -/

namespace Sys2Proof.Machine

/-! ### The value of a reconstructed byte (40 R74) -/

theorem reconstruct_false (m : Byte) : reconstruct false m = m := by
  simp [reconstruct_eq_or]

/-- With the sign bit set, the byte is bit 7 above the low seven bits of M. -/
theorem reconstruct_true_eq_append (m : Byte) : reconstruct true m = 1#1 ++ m.extractLsb' 0 7 := by
  apply BitVec.eq_of_getLsbD_eq
  intro k hk
  rw [BitVec.getLsbD_append]
  by_cases hlow : k < 7
  · simp [getLsbD_reconstruct_of_lt, hlow]
  · obtain rfl : k = 7 := by omega
    simp [getLsbD_reconstruct_seven]

theorem s8_reconstruct_true (m : Byte) :
    s8 (reconstruct true m) = ((m.extractLsb' 0 7).toNat : Int) - 128 := by
  have hvalue : (reconstruct true m).toNat = 128 + (m.extractLsb' 0 7).toNat := by
    rw [reconstruct_true_eq_append, toNat_append_eq_add]
    rfl
  rw [s8, if_neg (by omega)]
  omega

/-- The low seven bits of the pattern of v (00 R10). -/
theorem toNat_extractLsb'_u8 (v : Int) : (((u8 v).extractLsb' 0 7).toNat : Int) = v % 128 := by
  have := u8_toNat v
  rw [BitVec.extractLsb'_toNat, Nat.shiftRight_zero]
  omega

/-! ### The frame bits DECODE reads (40 R76) -/

/-- A frame that agrees with another on BUTTONS, the two sign bits, P1 and P2 gives the same fields. -/
theorem frame_fields_congr {f g : Word} (h : f &&& 0xFFFF3700#32 = g &&& 0xFFFF3700#32) :
    frameButtons pdasV1 f = frameButtons pdasV1 g ∧ frameDx pdasV1 f = frameDx pdasV1 g ∧
      frameDy pdasV1 f = frameDy pdasV1 g := by
  have hbit (i : Nat) (hi : (0xFFFF3700#32).getLsbD i = true) : f.getLsbD i = g.getLsbD i := by
    simpa [hi] using congrArg (BitVec.getLsbD · i) h
  have hfield (start len : Nat) (hmask : ∀ k < len, (0xFFFF3700#32).getLsbD (start + k) = true) :
      f.extractLsb' start len = g.extractLsb' start len := by
    ext k hk
    simpa using hbit (start + k) (hmask k hk)
  have hp0 (k : Nat) (hk : k < 8) (hi : (0xFFFF3700#32).getLsbD (8 + k) = true) :
      (frameP0 f).getLsbD k = (frameP0 g).getLsbD k := by
    rw [getLsbD_frameP0 f hk, getLsbD_frameP0 g hk, hbit _ hi]
  refine ⟨?_, congrArg₂ reconstruct (hp0 4 (by decide) (by decide)) (hfield 16 8 (by decide)),
    congrArg₂ reconstruct (hp0 5 (by decide) (by decide)) (hfield 24 8 (by decide))⟩
  rw [frameButtons_pdasV1, frameButtons_pdasV1, hfield 8 3 (by decide)]

/-! ### DECODE, and a second one (40 R77) -/

theorem exec_decode_of_sample {s : State} {w : Word} (h : decodedSample pdasV1 s.frameIn s.sample = w) :
    exec .decode s = .next { s with sample := w } := by
  subst h
  rfl

/-- Each bit of SAMPLE is written from the frame, whatever it was, or kept. -/
theorem decodedSample_idem (p : Params) (frame sample : Word) :
    decodedSample p frame (decodedSample p frame sample) = decodedSample p frame sample := by
  apply BitVec.eq_of_getLsbD_eq
  intro i _
  by_cases hskip : frameSkipped p frame = true
  · simp only [decodedSample, if_pos hskip, getLsbD_setValid]
    split_ifs <;> rfl
  · simp only [decodedSample, if_neg hskip, getLsbD_setValid, getLsbD_setDy, getLsbD_setDx,
      getLsbD_setButtons]
    split_ifs <;> rfl

end Sys2Proof.Machine
end

section
/-! PROOFS. The statements the spec marks as derived: the decoder, DECODE and the errors. -/

namespace Sys2Proof.Proofs

open Sys2Proof Sys2Proof.Machine

/-- Settles O3: a command's word names that command's row alone, and any other word names none. -/
theorem opcodeTableDecoderIsComplete : Obligations.OpcodeTableDecoderIsComplete := by
  unfold Obligations.OpcodeTableDecoderIsComplete
  intro w
  rw [tableDecode_eq_head?]
  cases hdecode : decode w with
  | command i =>
    obtain rfl := eq_encode_of_decode hdecode
    rw [filter_names_encode]
    exact ⟨rfl, .inl ⟨_, row_mem_opcodeTable i, rfl, rfl⟩⟩
  | illegal why =>
    have hno (i : Instr) : w ≠ encode i := by
      rintro rfl
      rw [decode_encode] at hdecode
      cases hdecode
    rw [filter_names_of_ne_encode hno]
    exact ⟨rfl, .inr ⟨rfl, why, rfl⟩⟩

/-- Settles O14: the masked bits are the fields a produced sample takes; a skip takes none. -/
theorem decodeIgnoresTheOtherFrameBits : Obligations.DecodeIgnoresTheOtherFrameBits := by
  unfold Obligations.DecodeIgnoresTheOtherFrameBits
  intro s f g h
  have hsample : decodedSample pdasV1 g s.sample = decodedSample pdasV1 f s.sample := by
    rcases h with ⟨hf, hfready, hg, hgready, hmasked⟩ | ⟨hf, hg⟩
    · obtain ⟨hbuttons, hdx, hdy⟩ := frame_fields_congr hmasked
      have hfproduced : ¬ frameSkipped pdasV1 f = true := by simp [frameSkipped_pdasV1_iff, hf, hfready]
      have hgproduced : ¬ frameSkipped pdasV1 g = true := by simp [frameSkipped_pdasV1_iff, hg, hgready]
      rw [decodedSample, if_neg hgproduced, decodedSample, if_neg hfproduced, hbuttons, hdx, hdy]
    · rw [decodedSample_of_skipped _ ((frameSkipped_pdasV1_iff g).mpr hg),
        decodedSample_of_skipped _ ((frameSkipped_pdasV1_iff f).mpr hf)]
  exact ⟨_, exec_decode_of_sample rfl, exec_decode_of_sample hsample⟩

/-- Settles O15: DECODE writes to SAMPLE a value of FRAME_IN and SAMPLE, and twice is once. -/
theorem decodeIsIdempotentAndReadsOnlyTheFrame : Obligations.DecodeIsIdempotentAndReadsOnlyTheFrame := by
  unfold Obligations.DecodeIsIdempotentAndReadsOnlyTheFrame
  intro s u hframe hsample
  exact ⟨_, exec_decode_of_sample rfl, exec_decode_of_sample (decodedSample_idem _ _ _),
    exec_decode_of_sample (by rw [hframe, hsample])⟩

/-- Settles O43: each of the three errors that cancel is the only bit its step sets, which leaves SAT alone. -/
theorem atMostOneErrorPerTransaction : Obligations.AtMostOneErrorPerTransaction := by
  unfold Obligations.AtMostOneErrorPerTransaction
  intro s t e f hstep he hset hf hset'
  have only_bit {a b : Error} (ha : a ≠ .sat) (haclear : statHas a s.stat = false)
      (haset : statHas a t.stat = true) (hbclear : statHas b s.stat = false)
      (hbset : statHas b t.stat = true) : a = b := by
    obtain ⟨-, hstat⟩ := cancellingErrorsArePrecise s t a ha hstep haclear haset
    rw [hstat] at hbset
    exact eq_of_statRaise_sets hbclear hbset
  by_cases hesat : e = .sat
  · by_cases hfsat : f = .sat
    · rw [hesat, hfsat]
    · exact (only_bit hfsat hf hset' he hset).symm
  · exact only_bit hesat he hset hf hset'

/-- Settles O12: the byte is M with the sign bit clear, and bit 7 above M[6:0] with it set; of a 9-bit d they
are d modulo 256 and modulo 128. -/
theorem reconstructedDeltaValue : Obligations.ReconstructedDeltaValue := by
  unfold Obligations.ReconstructedDeltaValue
  refine ⟨fun m => ⟨fun hlow => ?_, fun hhigh => ?_, s8_reconstruct_true m⟩, fun d hge hle => ?_⟩
  · rw [reconstruct_false, s8, if_pos hlow]
  · rw [reconstruct_false, s8, if_neg hhigh.not_gt]
  · have hmod := u8_toNat d
    by_cases hneg : d < 0
    · rw [decide_eq_true hneg, s8_reconstruct_true, toNat_extractLsb'_u8]
      omega
    · rw [decide_eq_false hneg, reconstruct_false, s8]
      split <;> omega

/-- Settles O13: 0xFF has every bit of a byte set, and the skip test names it. -/
theorem sentinelHasDataReadySetAndSkips : Obligations.SentinelHasDataReadySetAndSkips := by
  unfold Obligations.SentinelHasDataReadySetAndSkips
  intro p frame hlegal hsentinel hframe
  have hstatus : frameStatus frame = 0xFF := hframe
  obtain ⟨hdr, -⟩ := (legal_iff p).mp hlegal
  have hones : ∀ i ≤ 7, (0xFF : Byte).getLsbD i = true := by decide
  exact ⟨hstatus ▸ hones _ hdr, (frameSkipped_iff p frame).mpr (.inl (hstatus.trans hsentinel.symm))⟩

end Sys2Proof.Proofs
end

section
/-! SUPPORT. The laws of the curve branch (41 R89), of the rational q and of its rounding. -/

namespace Sys2Proof.Machine

/-! ### Rounding (41 R87) -/

/-- Rounding half away from zero rounds the magnitude to the nearest integer, a half up. -/
theorem roundHalfAway_eq_sign_mul_round (q : ℚ) : roundHalfAway q = (SignType.sign q : Int) * round |q| := by
  rw [roundHalfAway, round_eq]

theorem abs_roundHalfAway (q : ℚ) : |roundHalfAway q| = round |q| := by
  have hnonneg : 0 ≤ round |q| := by
    rw [round_eq]
    positivity
  rw [roundHalfAway_eq_sign_mul_round, abs_mul, abs_of_nonneg hnonneg]
  rcases lt_trichotomy q 0 with hneg | rfl | hpos
  · simp [sign_neg hneg]
  · simp
  · simp [sign_pos hpos]

theorem roundHalfAway_intCast (n : Int) : roundHalfAway (n : ℚ) = n := by
  rw [roundHalfAway_eq_sign_mul_round, ← Int.cast_abs, round_intCast, sign_intCast, sign_mul_abs]

/-! ### Sign and oddness (41 R89 (a), (g)) -/

theorem exactCurve_neg (frac : Nat) (d : Int) (t f : Nat) :
    exactCurve frac (-d) t f = -exactCurve frac d t f := by
  simp [exactCurve]

theorem exactCurve_eq_zero_or_sign (frac : Nat) (d : Int) (t f : Nat) :
    exactCurve frac d t f = 0 ∨ (exactCurve frac d t f).sign = d.sign := by
  simp only [exactCurve]
  generalize (_ / _ : Nat) = length
  rcases Nat.eq_zero_or_pos length with rfl | hpos
  · exact .inl (by simp)
  · exact .inr (by rw [Int.sign_mul, Int.sign_sign, Int.sign_natCast_of_ne_zero hpos.ne', mul_one])

/-- At threshold 1 and factor 1.0 the magnitude is `abs(d) / (1 + abs(d))`, which rounds to 1 unless d is 0
(41 R96). -/
theorem exactCurve_one_one (d : Int) : exactCurve 8 d 1 0x0100 = d.sign := by
  simp only [exactCurve]
  rcases eq_or_ne d 0 with rfl | hd
  · simp
  · have hlength : 1 ≤ d.natAbs := Int.natAbs_pos.mpr hd
    have hround : (2 * (d.natAbs * 1 * 0x0100) + 2 ^ 8 * (1 + d.natAbs)) / (2 * (2 ^ 8 * (1 + d.natAbs))) = 1 :=
      Nat.div_eq_of_lt_le (by omega) (by omega)
    rw [hround, Nat.cast_one, mul_one]

/-! ### Asymptote, monotonicity and gain (41 R89 (b) to (e)) -/

section Curve
variable (frac : Nat) (d : Int) {t : Nat} (f : Nat) (ht : 1 ≤ t)
include ht

/-- `abs(d) / (T + abs(d))` is below 1. -/
theorem abs_curveQ_lt (hf : 0 < f) : |curveQ frac d t f| < (t : ℚ) * f / (2 : ℚ) ^ frac := by
  have ht' : (0 : ℚ) < t := Nat.cast_pos.mpr ht
  have hf' : (0 : ℚ) < f := Nat.cast_pos.mpr hf
  rw [abs_curveQ frac d f ht, div_lt_div_iff₀ (curveDivisor_pos frac d ht) (by positivity)]
  have hgap : 0 < (2 : ℚ) ^ frac * t * t * f := by positivity
  linarith

/-- `abs(d) / (T + abs(d))` grows with `abs(d)`. -/
theorem abs_curveQ_mono {e : Int} (h : |d| ≤ |e|) : |curveQ frac d t f| ≤ |curveQ frac e t f| := by
  have h' : |(d : ℚ)| ≤ |(e : ℚ)| := by exact_mod_cast h
  rw [abs_curveQ frac d f ht, abs_curveQ frac e f ht,
    div_le_div_iff₀ (curveDivisor_pos frac d ht) (curveDivisor_pos frac e ht)]
  have hgrows : (2 : ℚ) ^ frac * t * t * f * |(d : ℚ)| ≤ (2 : ℚ) ^ frac * t * t * f * |(e : ℚ)| := by gcongr
  linarith

theorem abs_exactCurve_eq_round : |exactCurve frac d t f| = round |curveQ frac d t f| := by
  rw [exactCurve_eq_roundHalfAway frac d f ht, abs_roundHalfAway]

theorem abs_exactCurve_mono {e : Int} (h : |d| ≤ |e|) : |exactCurve frac d t f| ≤ |exactCurve frac e t f| := by
  rw [abs_exactCurve_eq_round frac d f ht, abs_exactCurve_eq_round frac e f ht, round_eq, round_eq]
  exact Int.floor_mono (by linarith [abs_curveQ_mono frac d f ht h])

theorem abs_exactCurve_le : (|exactCurve frac d t f| : ℚ) ≤ (t : ℚ) * f / (2 : ℚ) ^ frac + 1 / 2 := by
  have hasymptote : |curveQ frac d t f| ≤ (t : ℚ) * f / (2 : ℚ) ^ frac := by
    rcases Nat.eq_zero_or_pos f with rfl | hf
    · simp [curveQ_factor_zero]
    · exact (abs_curveQ_lt frac d f ht hf).le
  calc (|exactCurve frac d t f| : ℚ) = round |curveQ frac d t f| := by
        rw [← abs_exactCurve_eq_round frac d f ht, Int.cast_abs]
    _ ≤ |curveQ frac d t f| + 1 / 2 := round_le_add_half _
    _ ≤ _ := by gcongr

/-- What the curve falls short of half the factor, in proportion to what d exceeds the threshold. -/
theorem half_gain_sub_abs_curveQ : |(d : ℚ)| * ((f : ℚ) / (2 : ℚ) ^ frac) / 2 - |curveQ frac d t f| =
    |(d : ℚ)| * f / (2 * ((2 : ℚ) ^ frac * ((t : ℚ) + |(d : ℚ)|))) * (|(d : ℚ)| - t) := by
  have hsum : (t : ℚ) + |(d : ℚ)| ≠ 0 := by
    have : (0 : ℚ) < t := Nat.cast_pos.mpr ht
    positivity
  rw [abs_curveQ frac d f ht]
  field_simp
  ring

theorem abs_curveQ_le_half_gain (hreached : (t : Int) ≤ |d|) :
    |curveQ frac d t f| ≤ |(d : ℚ)| * ((f : ℚ) / (2 : ℚ) ^ frac) / 2 := by
  have hexcess : (0 : ℚ) ≤ |(d : ℚ)| - t := sub_nonneg.mpr (by exact_mod_cast hreached)
  rw [← sub_nonneg, half_gain_sub_abs_curveQ frac d f ht]
  positivity

theorem abs_curveQ_eq_half_gain_iff (hreached : (t : Int) ≤ |d|) (hf : 0 < f) :
    |curveQ frac d t f| = |(d : ℚ)| * ((f : ℚ) / (2 : ℚ) ^ frac) / 2 ↔ |d| = t := by
  have hd : (0 : ℚ) < |(d : ℚ)| := by
    exact_mod_cast (Int.natCast_pos.mpr ht).trans_le hreached
  have hslope : |(d : ℚ)| * f / (2 * ((2 : ℚ) ^ frac * ((t : ℚ) + |(d : ℚ)|))) ≠ 0 := by
    have : (0 : ℚ) < f := Nat.cast_pos.mpr hf
    positivity
  rw [eq_comm, ← sub_eq_zero, half_gain_sub_abs_curveQ frac d f ht, mul_eq_zero, or_iff_right hslope,
    sub_eq_zero]
  exact_mod_cast Iff.rfl

theorem curveQ_at_threshold (hd : |d| = t) : curveQ frac d t f = (d : ℚ) * f / (2 : ℚ) ^ (frac + 1) := by
  have hd' : |(d : ℚ)| = t := by exact_mod_cast hd
  have ht' : (0 : ℚ) < t := Nat.cast_pos.mpr ht
  rw [curveQ_eq_div frac d f ht, hd']
  field_simp
  ring

theorem exactCurve_at_threshold (hd : |d| = t) : exactCurve frac d t (2 ^ (frac + 1)) = d := by
  rw [exactCurve_eq_roundHalfAway frac d _ ht, curveQ_at_threshold frac d _ ht hd, Nat.cast_pow,
    Nat.cast_ofNat, mul_div_cancel_right₀ _ (by positivity), roundHalfAway_intCast]

end Curve

/-- Up to a factor of 2.0 the curve lengthens no delta that reaches the threshold (92 D12). -/
theorem abs_exactCurve_le_abs {frac : Nat} {d : Int} {t f : Nat} (ht : 1 ≤ t) (hreached : (t : Int) ≤ |d|)
    (hf : f ≤ 2 * 2 ^ frac) : |exactCurve frac d t f| ≤ |d| := by
  rw [Int.abs_eq_natAbs, Nat.cast_le] at hreached
  obtain ⟨hge, hle⟩ := exactCurve_between ht hreached hf
  have := neg_abs_le d
  have := le_abs_self d
  exact abs_le.mpr ⟨by omega, by omega⟩

end Sys2Proof.Machine
end

section
/-! SUPPORT. The SHAPE commands of PDAS v1 by their branches: passing every delta through, the narrowed curve,
and what a factor of at most 2.0 keeps (41 R95, R96, 92 D12). -/

namespace Sys2Proof.Machine

theorem not_shapeRefused_of_one_le {cfg : Word} (ht : 1 ≤ threshold cfg) : ¬ shapeRefused cfg = true := by
  rw [shapeRefused_iff]
  omega

/-! ### One axis evaluation -/

/-- Under SAT a value is clamped to -128..127 (41 R88). -/
theorem s8_narrow_sat (r : Int) : s8 (narrow .sat r).1 = max (-128) (min 127 r) := by
  by_cases hlt : r < -128
  · rw [narrow_sat_of_lt hlt, s8_u8 (by decide) (by decide)]
    omega
  · by_cases hgt : 127 < r
    · rw [narrow_sat_of_gt hgt, s8_u8 (by decide) (by decide)]
      omega
    · rw [narrow_of_fits _ (by omega) (by omega), s8_u8 (by omega) (by omega)]
      omega

/-- The curve branch of PDAS v1: the rounded rational value, clamped. -/
theorem s8_shapeValue_curve {cfg : Word} {elapsed : Nat} {d8 : Byte} (hen : accelEn cfg = true)
    (ht : 1 ≤ threshold cfg) (hreached : (threshold cfg : Int) ≤ |s8 d8|) (hfresh : elapsed ≤ 100) :
    s8 (shapeValue buildV1 cfg elapsed d8).1 =
      max (-128) (min 127 (roundHalfAway (curveQ 8 (s8 d8) (threshold cfg) (factor cfg)))) := by
  rw [shapeValue_curve buildV1 d8 hen hreached hfresh, buildV1_curve, exactCurve_eq_roundHalfAway _ _ _ ht]
  exact s8_narrow_sat _

theorem abs_s8_le (b : Byte) : |s8 b| ≤ 128 :=
  abs_le.mpr ⟨s8_ge b, (s8_le b).trans (by decide)⟩

/-- Clamping lengthens nothing, so with a factor of at most 2.0 no axis evaluation does. -/
theorem abs_s8_shapeValue_le {cfg : Word} (elapsed : Nat) (d8 : Byte) (h : ¬ shapeRefused cfg = true)
    (hf : factor cfg ≤ 0x0200) : |s8 (shapeValue buildV1 cfg elapsed d8).1| ≤ |s8 d8| := by
  by_cases hpass : accelEn cfg = false ∨ |s8 d8| < threshold cfg ∨ buildV1.params.staleLimit < elapsed
  · rw [shapeValue_passes buildV1 d8 hpass]
  · simp only [not_or, Bool.not_eq_false, not_lt] at hpass
    obtain ⟨hen, hreached, hfresh⟩ := hpass
    obtain ⟨hge, hle⟩ := abs_le.mp
      (abs_exactCurve_le_abs (frac := 8) (one_le_threshold_of_not_refused h hen) hreached hf)
    rw [shapeValue_curve buildV1 d8 hen hreached hfresh, buildV1_curve,
      show buildV1.params.ovfMode = .sat from rfl, s8_narrow_sat]
    exact abs_le.mpr ⟨by omega, by omega⟩

/-! ### The commands -/

theorem dx_shapeDx (b : Build) (s : State) : dx (shapeDx b s).sample =
    (shapeValue b s.cfg (elapsedTime b.params s.now s.lastTime) (dx s.sample)).1 := by
  rw [shapeDx_eq, dx_setDx]

theorem dy_shapeDy (b : Build) (s : State) : dy (shapeDy b s).sample =
    (shapeValue b s.cfg (elapsedTime b.params s.now s.lastTime) (dy s.sample)).1 := by
  rw [shapeDy_eq, dy_setDy]

@[simp] theorem dx_shapeDy (b : Build) (s : State) : dx (shapeDy b s).sample = dx s.sample := by
  rw [shapeDy_sample, dx_setDy]

/-- An axis whose delta passes is written back as it was. -/
theorem shapeDx_of_passes {b : Build} {s : State}
    (h : shapeValue b s.cfg (elapsedTime b.params s.now s.lastTime) (dx s.sample) = (dx s.sample, false)) :
    shapeDx b s = { s with lastTime := s.now } := by
  rw [shapeDx_eq, h, setDx_dx]
  rfl

theorem shapeDy_of_passes {b : Build} {s : State}
    (h : shapeValue b s.cfg (elapsedTime b.params s.now s.lastTime) (dy s.sample) = (dy s.sample, false)) :
    shapeDy b s = { s with lastTime := s.now } := by
  rw [shapeDy_eq, h, setDy_dy]
  rfl

/-- A SHAPE under which every delta passes only moves LAST_TIME. -/
theorem commandOf_of_passes {b : Build} {i : Instr} {s : State} (hi : i.isShape = true)
    (haccepted : ¬ shapeRefused s.cfg = true)
    (h : ∀ elapsed d8, shapeValue b s.cfg elapsed d8 = (d8, false)) :
    commandOf b i s = { s with lastTime := s.now } := by
  cases i with
  | nop => cases hi
  | decode => cases hi
  | shapeX => rw [commandOf_shapeX_of_accepted b haccepted, shapeDx_of_passes (h _ _)]
  | shapeY => rw [commandOf_shapeY_of_accepted b haccepted, shapeDy_of_passes (h _ _)]
  | shapeXY =>
    rw [commandOf_shapeXY_of_accepted b haccepted, shapeDx_of_passes (h _ _),
      shapeDy_of_passes (s := { s with lastTime := s.now }) (h _ _)]

/-- With LAST_TIME 0 the elapsed time is NOW (41 R95). -/
theorem elapsedTime_pdasV1_zero (now : Word) : elapsedTime pdasV1 now 0 = now.toNat :=
  elapsedTime_eq_of_modEq now.isLt (by simp [Int.ModEq.refl])

theorem exec_shapeXY_of_accepted {s : State} (h : ¬ shapeRefused s.cfg = true) :
    exec .shapeXY s = .next (shapeDy buildV1 (shapeDx buildV1 s)) := by
  rw [exec_eq_commandOf, commandOf_shapeXY_of_accepted buildV1 h]

/-! ### A factor of at most 2.0 (92 D12) -/

/-- In t the configuration is that of s, and neither delta is larger in magnitude: what each axis evaluation
keeps. -/
def NotLongerThan (s t : State) : Prop :=
  t.cfg = s.cfg ∧ |s8 (dx t.sample)| ≤ |s8 (dx s.sample)| ∧ |s8 (dy t.sample)| ≤ |s8 (dy s.sample)|

section FactorUpToTwo
variable {s : State} (hf : factor s.cfg ≤ 0x0200)
include hf

/-- SAT comes from an overflow only, and an overflow from a factor above 2.0 only. -/
theorem statHas_sat_commandOf (i : Instr) :
    statHas .sat (commandOf buildV1 i s).stat = statHas .sat s.stat := by
  cases hsat : statHas .sat s.stat with
  | true => exact statHas_commandOf_of_statHas buildV1 i hsat
  | false =>
    by_contra hset
    obtain ⟨-, ⟨-, hcfgErr⟩ | ⟨haccepted, -, elapsed, d8, hoverflow⟩⟩ :=
      commandOf_sets hsat (Bool.eq_true_of_not_eq_false hset)
    · cases hcfgErr
    · obtain ⟨-, -, hfactor⟩ := factor_of_overflow haccepted hoverflow
      omega

/-- Refused, a SHAPE leaves the deltas; else each axis evaluation lengthens none. -/
theorem abs_deltas_commandOf_le {i : Instr} (hi : i.isShape = true) :
    |s8 (dx (commandOf buildV1 i s).sample)| ≤ |s8 (dx s.sample)| ∧
      |s8 (dy (commandOf buildV1 i s).sample)| ≤ |s8 (dy s.sample)| := by
  by_cases hrefused : shapeRefused s.cfg = true
  · rw [commandOf_of_refused buildV1 hi hrefused]
    exact ⟨le_rfl, le_rfl⟩
  · refine (commandOf_preserves (P := NotLongerThan s) (fun h => by subst h; cases hi)
      ⟨rfl, le_rfl, le_rfl⟩ (fun u hu => ?_) (fun u hu => ?_) ⟨rfl, le_rfl, le_rfl⟩).2
    · obtain ⟨hcfg, hdx, hdy⟩ := hu
      rw [NotLongerThan, shapeDx_cfg, dy_shapeDx, dx_shapeDx, hcfg]
      exact ⟨rfl, (abs_s8_shapeValue_le _ _ hrefused hf).trans hdx, hdy⟩
    · obtain ⟨hcfg, hdx, hdy⟩ := hu
      rw [NotLongerThan, shapeDy_cfg, dx_shapeDy, dy_shapeDy, hcfg]
      exact ⟨rfl, hdx, (abs_s8_shapeValue_le _ _ hrefused hf).trans hdy⟩

end FactorUpToTwo

end Sys2Proof.Machine
end

section
/-! PROOFS. The statements the spec marks as derived: the curve and the SHAPE commands. -/

namespace Sys2Proof.Proofs

open Sys2Proof Sys2Proof.Machine

/-- Settles O25: the curve is the sign of d times a length that does not see that sign. -/
theorem curveKeepsTheSignAndIsOdd : Obligations.CurveKeepsTheSignAndIsOdd := by
  unfold Obligations.CurveKeepsTheSignAndIsOdd
  exact fun frac d t f _ => ⟨exactCurve_eq_zero_or_sign frac d t f, exactCurve_neg frac d t f⟩

/-- Settles O26: `abs(q)` is T*F/2^FRAC times `abs(d) / (T + abs(d))`, which grows towards 1, and the magnitude
of the machine's curve is `abs(q)` rounded. -/
theorem curveIsMonotoneBelowItsAsymptote : Obligations.CurveIsMonotoneBelowItsAsymptote := by
  unfold Obligations.CurveIsMonotoneBelowItsAsymptote
  exact fun frac d e t f ht => ⟨abs_curveQ_lt frac d f ht, curveQ_factor_zero frac d t,
    abs_curveQ_mono frac d f ht, abs_exactCurve_mono frac d f ht, abs_exactCurve_le frac d f ht⟩

/-- Settles O27: half the factor less the gain is a multiple of `abs(d) - T`. -/
theorem curveGainIsAtMostHalfTheFactor : Obligations.CurveGainIsAtMostHalfTheFactor := by
  unfold Obligations.CurveGainIsAtMostHalfTheFactor
  exact fun frac d t f ht hreached => ⟨abs_curveQ_le_half_gain frac d f ht hreached,
    abs_curveQ_eq_half_gain_iff frac d f ht hreached, curveQ_at_threshold frac d f ht,
    exactCurve_at_threshold frac d ht⟩

/-- Settles O28: a factor of at most 2.0 is a gain of at most 1 in the curve branch, and the other branches
return the delta. -/
theorem factorUpToTwoNeverOverflows : Obligations.FactorUpToTwoNeverOverflows := by
  unfold Obligations.FactorUpToTwoNeverOverflows
  exact fun i s hf => ⟨_, exec_eq_commandOf i s, statHas_sat_commandOf hf i, abs_deltas_commandOf_le hf⟩

/-- Settles O30: with LAST_TIME 0 the first axis sees NOW as the elapsed time; the second axis of SHAPE_XY
leaves DX. -/
theorem firstShapeIsStaleWhenNowExceedsHundred : Obligations.FirstShapeIsStaleWhenNowExceedsHundred := by
  unfold Obligations.FirstShapeIsStaleWhenNowExceedsHundred
  intro s hlast hen ht shaped
  have haccepted := not_shapeRefused_of_one_le ht
  have helapsed : elapsedTime buildV1.params s.now s.lastTime = s.now.toNat :=
    hlast ▸ elapsedTime_pdasV1_zero s.now
  have hstale (d8 : Byte) (hnow : 100 < s.now.toNat) :
      shapeValue buildV1 s.cfg (elapsedTime buildV1.params s.now s.lastTime) d8 = (d8, false) :=
    shapeValue_passes buildV1 d8 (.inr (.inr (helapsed ▸ hnow)))
  have hcurve (d8 : Byte) (hreached : (threshold s.cfg : Int) ≤ |s8 d8|) (hnow : s.now.toNat ≤ 100) :
      s8 (shapeValue buildV1 s.cfg (elapsedTime buildV1.params s.now s.lastTime) d8).1 = shaped d8 :=
    s8_shapeValue_curve hen ht hreached (helapsed ▸ hnow)
  refine ⟨fun hreached => ⟨fun hnow => ⟨?_, _, exec_shapeXY_of_accepted haccepted, ?_⟩,
      fun hnow => ⟨⟨_, exec_shapeX_of_accepted haccepted, ?_⟩, _, exec_shapeXY_of_accepted haccepted, ?_⟩⟩,
    fun hreached => ⟨fun hnow => ?_, fun hnow => ⟨_, exec_shapeY_of_accepted haccepted, ?_⟩⟩⟩
  · rw [exec_shapeX_of_accepted haccepted, shapeDx_of_passes (hstale _ hnow)]
  · rw [dx_shapeDy, dx_shapeDx, hstale _ hnow]
  · rw [dx_shapeDx, hcurve _ hreached hnow]
  · rw [dx_shapeDy, dx_shapeDx, hcurve _ hreached hnow]
  · rw [exec_shapeY_of_accepted haccepted, shapeDy_of_passes (hstale _ hnow)]
  · rw [dy_shapeDy, hcurve _ hreached hnow]

/-- Settles O31: no delta is longer than 128, so none reaches a threshold of 129. -/
theorem thresholdAndFactorCorners : Obligations.ThresholdAndFactorCorners := by
  unfold Obligations.ThresholdAndFactorCorners
  refine ⟨fun i s hi hthreshold => ?_, exactCurve_one_one,
    fun frac d t ht => exactCurve_factor_zero frac d ht⟩
  change 129 ≤ threshold s.cfg at hthreshold
  have haccepted : ¬ shapeRefused s.cfg = true := not_shapeRefused_of_one_le (by omega)
  rw [exec_eq_commandOf, commandOf_of_passes hi haccepted fun elapsed d8 =>
    shapeValue_passes buildV1 d8 (.inr (.inl ?_))]
  have := abs_s8_le d8
  omega

end Sys2Proof.Proofs
end
